-- ==== Sys2Proof/Word.lean ====
section
/-! DEFINITION. The word types of the DSB1 PID controller block: bytes of its frames and buffers, and the 32-bit
event word that encodes one input (30_encoding.md R110). -/

namespace Sys2Proof

/-- One byte of a frame or of a buffer (00_scope.md R12, `u8`). -/
abbrev Byte := BitVec 8

/-- One event word (30_encoding.md R110, R116): the only length is 32 bits. -/
abbrev EventWord := BitVec 32

end Sys2Proof
end

