-- ==== Sys2Proof/Syntax.lean ====
section
/-! DEFINITION. The syntax of the block: its four axes, its seventeen operations (every row of
spec/opcode_table.json, one constructor each) and the names under which an event word is refused. -/

namespace Sys2Proof

/-- The four axes A, B, C, D, indexed 0, 1, 2, 3 in that order (00_scope.md R6). -/
inductive Axis where
  | A | B | C | D
  deriving DecidableEq, Repr

/-- The index of an axis (00_scope.md R6). -/
def Axis.index : Axis → Nat
  | .A => 0
  | .B => 1
  | .C => 2
  | .D => 3

/-- The axes in the order the source gives them: "for axes A,B,C,D in order" (45_control_tick.md R271). -/
def Axis.inOrder : List Axis := [.A, .B, .C, .D]

/-- One value for each axis: the source's "explicit bank-of-4 structure" (10_state.md R30). -/
structure PerAxis (α : Type) where
  a : α
  b : α
  c : α
  d : α
  deriving DecidableEq, Repr

/-- The element of axis `i`, written `x[i]` in the rules (00_scope.md R14). -/
def PerAxis.get {α : Type} (p : PerAxis α) : Axis → α
  | .A => p.a
  | .B => p.b
  | .C => p.c
  | .D => p.d

/-- The bank with the element of axis `i` replaced: `x[i] <- v` (00_scope.md R14). -/
def PerAxis.set {α : Type} (p : PerAxis α) (i : Axis) (v : α) : PerAxis α :=
  match i with
  | .A => { p with a := v }
  | .B => { p with b := v }
  | .C => { p with c := v }
  | .D => { p with d := v }

/-- The bank that holds `v` for every axis. -/
def PerAxis.all {α : Type} (v : α) : PerAxis α := ⟨v, v, v, v⟩

/-- The operations of the block. The first nine are events, each with an event code (30_encoding.md R111); the
last eight are internal (R115): they have no event code, and each is performed only inside the event whose rule
invokes it. -/
inductive Instr where
  /-- INIT (45_control_tick.md R275): the block's reset. -/
  | init
  /-- CTRL_TICK (45_control_tick.md R271): one control tick for all four axes. -/
  | ctrlTick
  /-- TEL_TICK (44_telemetry.md R241): `acc` is the transport's answer to this tick's submission. -/
  | telTick (acc : Bool)
  /-- RX_BYTE (43_command_decoder.md R200): one received byte. -/
  | rxByte (b : Byte)
  /-- COMMIT_STEP (43_command_decoder.md R206): write one field of the completed frame. -/
  | commitStep
  /-- TX_DONE (44_telemetry.md R244): the transport's completion callback. -/
  | txDone
  /-- TX_ERR (44_telemetry.md R245): the transport's error callback. -/
  | txErr
  /-- POS_READ (40_encoder_tracker.md R145): read the scaled position of axis `i`. -/
  | posRead (i : Axis)
  /-- ENC_ADD (40_encoder_tracker.md R141): the environment moves the counter of axis `i` by `k`. -/
  | encAdd (i : Axis) (k : Int)
  /-- SAMPLE (40_encoder_tracker.md R142), internal. -/
  | sample (i : Axis)
  /-- RESET_ALL (40_encoder_tracker.md R144), internal. -/
  | resetAll
  /-- RAMP_ADVANCE (42_ramp.md R181), internal: commanded target `t`, enable `en`. -/
  | rampAdvance (i : Axis) (t : Int) (en : Bool)
  /-- PID_STEP (41_pid.md R161), internal: setpoint `sp`, measured value `meas`. -/
  | pidStep (i : Axis) (sp meas : Int)
  /-- DET_STEP (43_command_decoder.md R202), internal. -/
  | detStep (b : Byte)
  /-- DEC_STEP (43_command_decoder.md R203), internal. -/
  | decStep (b : Byte)
  /-- TLM_ASSEMBLE (44_telemetry.md R242), internal. -/
  | tlmAssemble
  /-- ACTUATE (45_control_tick.md R272), internal. -/
  | actuate
  deriving DecidableEq, Repr

/-- Why the decoder refuses an event word (30_encoding.md R113). A refused word has no meaning and no step. -/
inductive DecodeError where
  /-- The event code is 0x0 or 0xA … 0xF. -/
  | unusedCode
  /-- The `rsv` bits 25:16 are not all 0. -/
  | reservedBits
  /-- The `ax` bits are not 0 for an event without an axis. -/
  | axisBits
  /-- A `data` bit that is no operand of the event is not 0. -/
  | dataBits
  deriving DecidableEq, Repr

end Sys2Proof
end

