-- ==== Sys2Proof/WellFormed.lean ====
section
/-! DEFINITION. Which terms of `Instr` the spec can form: the ranges of the integer operands, and which
operations are events. -/

namespace Sys2Proof

/-- `v` lies in the two's-complement range of `n` bits (00_scope.md R12). -/
abbrev InSigned (n : Nat) (v : Int) : Prop := -(2 ^ (n - 1)) ≤ v ∧ v < 2 ^ (n - 1)

/-- An operation is well formed when its integer operands are values its rule can be given: ENC_ADD's increment
is an int16 (30_encoding.md R112); RAMP_ADVANCE's target is an int8 (42_ramp.md R181); PID_STEP's setpoint lies in
−256 … 254 and its measured value is a delta of at most 32 bits (00_scope.md R8, R10). Every other operand is
bounded by its type. -/
def Instr.wellFormed (i : Instr) : Bool :=
  match i with
  | .encAdd _ k => decide (InSigned 16 k)
  | .rampAdvance _ t _ => decide (InSigned 8 t)
  | .pidStep _ sp meas => decide (-256 ≤ sp ∧ sp ≤ 254) && decide (InSigned 32 meas)
  | .init | .ctrlTick | .telTick _ | .rxByte _ | .commitStep | .txDone | .txErr | .posRead _ => true
  | .sample _ | .resetAll | .detStep _ | .decStep _ | .tlmAssemble | .actuate => true

/-- The operations with an event code (30_encoding.md R111); the others are internal (R115). -/
def Instr.isEvent : Instr → Bool
  | .init | .ctrlTick | .telTick _ | .rxByte _ | .commitStep | .txDone | .txErr | .posRead _ | .encAdd _ _ => true
  | .sample _ | .resetAll | .rampAdvance _ _ _ | .pidStep _ _ _ | .detStep _ | .decStep _ | .tlmAssemble | .actuate =>
    false

end Sys2Proof
end

