-- ==== Sys2Proof/Decode.lean ====
section
/-! DEFINITION. The event word (30_encoding.md R110 to R116): its fields, the decoder, the encoder, and the match and
mask of each event of spec/opcode_table.json. -/

namespace Sys2Proof

/-- Bits 31:28, the event code (30_encoding.md R110). -/
def evField (w : EventWord) : BitVec 4 := w.extractLsb' 28 4

/-- Bits 27:26, the axis index (30_encoding.md R110). -/
def axField (w : EventWord) : BitVec 2 := w.extractLsb' 26 2

/-- Bits 25:16, which must be 0 (30_encoding.md R110). -/
def rsvField (w : EventWord) : BitVec 10 := w.extractLsb' 16 10

/-- Bits 15:0, the operand (30_encoding.md R110). -/
def dataField (w : EventWord) : BitVec 16 := w.extractLsb' 0 16

/-- The axis an `ax` field names: 0 … 3 are A … D (30_encoding.md R110). -/
def axisOfField (ax : BitVec 2) : Axis :=
  match ax.toNat with
  | 0 => .A
  | 1 => .B
  | 2 => .C
  | _ => .D

/-- The `ax` field of an axis (30_encoding.md R110). -/
def fieldOfAxis (i : Axis) : BitVec 2 := BitVec.ofNat 2 i.index

/-- An event whose rule takes no axis: its `ax` bits must be 0 (30_encoding.md R112, R113). -/
def requireNoAxis (w : EventWord) (i : Instr) : Except DecodeError Instr :=
  if axField w = 0#2 then .ok i else .error .axisBits

/-- An event whose operand takes the `data` bits below bit `n`: the bits from `n` up must be 0 (30_encoding.md R112,
R113). -/
def requireDataBelow (n : Nat) (w : EventWord) (r : Except DecodeError Instr) : Except DecodeError Instr :=
  if (dataField w) >>> n = 0#16 then r else .error .dataBits

/-- The event a word encodes, by its event code (30_encoding.md R111, R112), before the `rsv` bits are tested. -/
def decodeByCode (w : EventWord) : Except DecodeError Instr :=
  match (evField w).toNat with
  | 0x1 => requireDataBelow 0 w (requireNoAxis w .init)
  | 0x2 => requireDataBelow 0 w (requireNoAxis w .ctrlTick)
  | 0x3 => requireDataBelow 1 w (requireNoAxis w (.telTick ((dataField w).getLsbD 0)))
  | 0x4 => requireDataBelow 8 w (requireNoAxis w (.rxByte ((dataField w).extractLsb' 0 8)))
  | 0x5 => requireDataBelow 0 w (requireNoAxis w .commitStep)
  | 0x6 => requireDataBelow 0 w (requireNoAxis w .txDone)
  | 0x7 => requireDataBelow 0 w (requireNoAxis w .txErr)
  | 0x8 => requireDataBelow 0 w (.ok (.posRead (axisOfField (axField w))))
  | 0x9 => .ok (.encAdd (axisOfField (axField w)) (dataField w).toInt)
  | _ => .error .unusedCode

/-- The decoder, total on event words: the event the word encodes, or the name under which the word is refused
(30_encoding.md R113). A word with several faults is refused under one of their names (log 10). -/
def decode (w : EventWord) : Except DecodeError Instr :=
  match decodeByCode w with
  | .error e => .error e
  | .ok i => if rsvField w = 0#10 then .ok i else .error .reservedBits

/-- The event word with the given fields and `rsv` = 0 (30_encoding.md R110). -/
def eventWord (ev : BitVec 4) (ax : BitVec 2) (data : BitVec 16) : EventWord := ev ++ ax ++ 0#10 ++ data

/-- The event word of a well-formed event (30_encoding.md R111, R112); an internal operation has none (R115). -/
def encode (i : Instr) : Option EventWord :=
  match i with
  | .init => some (eventWord 0x1#4 0#2 0#16)
  | .ctrlTick => some (eventWord 0x2#4 0#2 0#16)
  | .telTick acc => some (eventWord 0x3#4 0#2 ((BitVec.ofBool acc).setWidth 16))
  | .rxByte b => some (eventWord 0x4#4 0#2 (b.setWidth 16))
  | .commitStep => some (eventWord 0x5#4 0#2 0#16)
  | .txDone => some (eventWord 0x6#4 0#2 0#16)
  | .txErr => some (eventWord 0x7#4 0#2 0#16)
  | .posRead i => some (eventWord 0x8#4 (fieldOfAxis i) 0#16)
  | .encAdd i k => some (eventWord 0x9#4 (fieldOfAxis i) (BitVec.ofInt 16 k))
  | .sample _ | .resetAll | .rampAdvance _ _ _ | .pidStep _ _ _ | .detStep _ | .decStep _ | .tlmAssemble | .actuate =>
    none

/-- One event row of spec/opcode_table.json: a word belongs to the row when it agrees with `value` on the bits of
`mask`. -/
structure EventRow where
  mask : EventWord
  value : EventWord
  deriving DecidableEq, Repr

/-- The mask and match of an event's row in spec/opcode_table.json; an internal row has none. -/
def eventRow (i : Instr) : Option EventRow :=
  match i with
  | .init => some ⟨0xFFFFFFFF#32, 0x10000000#32⟩
  | .ctrlTick => some ⟨0xFFFFFFFF#32, 0x20000000#32⟩
  | .telTick _ => some ⟨0xFFFFFFFE#32, 0x30000000#32⟩
  | .rxByte _ => some ⟨0xFFFFFF00#32, 0x40000000#32⟩
  | .commitStep => some ⟨0xFFFFFFFF#32, 0x50000000#32⟩
  | .txDone => some ⟨0xFFFFFFFF#32, 0x60000000#32⟩
  | .txErr => some ⟨0xFFFFFFFF#32, 0x70000000#32⟩
  | .posRead _ => some ⟨0xF3FFFFFF#32, 0x80000000#32⟩
  | .encAdd _ _ => some ⟨0xF3FF0000#32, 0x90000000#32⟩
  | .sample _ | .resetAll | .rampAdvance _ _ _ | .pidStep _ _ _ | .detStep _ | .decStep _ | .tlmAssemble | .actuate =>
    none

/-- The nine event rows of spec/opcode_table.json, in its order. -/
def eventRows : List EventRow :=
  [⟨0xFFFFFFFF#32, 0x10000000#32⟩, ⟨0xFFFFFFFF#32, 0x20000000#32⟩, ⟨0xFFFFFFFE#32, 0x30000000#32⟩,
    ⟨0xFFFFFF00#32, 0x40000000#32⟩, ⟨0xFFFFFFFF#32, 0x50000000#32⟩, ⟨0xFFFFFFFF#32, 0x60000000#32⟩,
    ⟨0xFFFFFFFF#32, 0x70000000#32⟩, ⟨0xF3FFFFFF#32, 0x80000000#32⟩, ⟨0xF3FF0000#32, 0x90000000#32⟩]

/-- `w` belongs to the row `r`. -/
def EventRow.fits (r : EventRow) (w : EventWord) : Bool := w &&& r.mask == r.value

/-- The word with bit 0 of `w` as its bit 0 and every bit from `nbits` up 0, as an event word. Event words are
not stored in bytes, so no byte order applies (20_memory.md R70, 30_encoding.md R116). -/
def tableWord (nbits w : Nat) : EventWord := BitVec.ofNat 32 (w % 2 ^ nbits)

/-- The instruction the decoder reads from a row's word of spec/opcode_table.json, none where it refuses. -/
def decodeTableWord (nbits w : Nat) : Option Instr := (decode (tableWord nbits w)).toOption

end Sys2Proof
end

