-- ==== Sys2Proof/Config.lean ====
section
/-! DEFINITION. What is fixed for the life of a block: the constants of the source (00_scope.md R6) and the
implementation parameters it leaves open (00_scope.md R7). The legality test of R8 is in Machine/Boundary.lean. -/

namespace Sys2Proof

/-- HEADER of a command or telemetry frame (00_scope.md R6). -/
def header : Byte := 0x23#8

/-- TAIL of a command or telemetry frame (00_scope.md R6). -/
def tail : Byte := 0x21#8

/-- PAYLOAD_LEN, the size of `pl` in bytes (00_scope.md R6). -/
def payloadLen : Nat := 9

/-- TLM_LEN, the size of `txbuf` in bytes (00_scope.md R6). -/
def telemetryLen : Nat := 42

/-- RESET_SEQ, oldest byte first (00_scope.md R6). -/
def resetSeq : List Byte := [0x21#8, 0x40#8, 0x21#8]

/-- The parameters of 00_scope.md R7, "each one as an argument". No rule reads the two rates
(60_exceptions.md R307); each is recorded, when it is given, as a whole number of one common unit (log 11). -/
structure Config where
  /-- CNT_W: width in bits of each quadrature counter. -/
  cntW : Nat
  /-- POS_DIV: divisor of each delta before it is added to the position. -/
  posDiv : Int
  /-- KP[i], KI[i], KD[i]: the gains of each axis. -/
  kp : PerAxis Int
  ki : PerAxis Int
  kd : PerAxis Int
  /-- SCALE: the divisor of the PID sum. -/
  scale : Int
  /-- INTEGRAL_LIMIT: symmetric bound of the PID integral. -/
  integralLimit : Int
  /-- OUTPUT_LIMIT: symmetric bound of the PID output. -/
  outputLimit : Int
  /-- RES: high-resolution units per native unit of the ramp. -/
  res : Int
  /-- RAMP_STEP: the ramp's step per tick, in high-resolution units. -/
  rampStep : Int
  /-- TICK_RATE: the control cadence, when given. -/
  tickRate : Option Nat
  /-- TEL_RATE: the telemetry cadence, when given. -/
  telRate : Option Nat
  deriving DecidableEq, Repr

/-- REF, the reference configuration of 00_scope.md R9: "the spec's own choice", used by the test vectors and by
no rule. The rates are not part of it. -/
def Config.ref : Config where
  cntW := 16
  posDiv := 4
  kp := PerAxis.all 150
  ki := PerAxis.all 20
  kd := PerAxis.all 50
  scale := 100
  integralLimit := 500
  outputLimit := 1000
  res := 10
  rampStep := 275
  tickRate := none
  telRate := none

end Sys2Proof
end

