-- ==== Sys2Proof/Machine/State.lean ====
section
/-! DEFINITION. The state of the block (10_state.md R30 to R48, R52), its output events (00_scope.md R17), the reasons
a step can stop, and the state right after reset (10_state.md R55). -/

namespace Sys2Proof.Machine

open Sys2Proof

/-- A byte-indexed buffer (20_memory.md R70): its bytes by offset, in the canonical form of `Memory.wf`. An offset
that is not listed reads 0x00, the reset contents of both buffers (10_state.md R55; log 13). -/
abbrev Memory := List Host.Cell

/-- The canonical form of a buffer of `size` bytes: offsets strictly rising, all inside the buffer, and no entry
equal to what an unlisted offset reads as, so that equal contents are equal data. -/
abbrev Memory.wf (size : Nat) (m : Memory) : Prop :=
  m.Pairwise (fun x y => x.1 < y.1) ∧ ∀ c ∈ m, c.1 < size ∧ c.2 ≠ 0#8

/-- The per-axis record (10_state.md R31, R33 to R39). Values to which the spec gives no width of their own are exact
integers (00_scope.md R10, R12; log 12). -/
structure AxisState where
  /-- `pos[i]`, signed 32-bit (10_state.md R33). -/
  pos : BitVec 32
  /-- `last_delta[i]`, signed, CNT_W bits (10_state.md R31). -/
  lastDelta : Int
  /-- `integ[i]` (10_state.md R34). -/
  integ : Int
  /-- `prev_err[i]` (10_state.md R35). -/
  prevErr : Int
  /-- `ramp[i]`, in high-resolution units (10_state.md R36). -/
  ramp : Int
  /-- `out[i]` (10_state.md R37). -/
  out : Int
  /-- `target[i]`, signed 8-bit (10_state.md R38). -/
  target : BitVec 8
  /-- `bias[i]`, signed 8-bit (10_state.md R39). -/
  bias : BitVec 8
  deriving DecidableEq, Repr

/-- The per-axis record after INIT: every element 0 (10_state.md R55). -/
def AxisState.zero : AxisState := ⟨0#32, 0, 0, 0, 0, 0, 0#8, 0#8⟩

/-- The output events of 00_scope.md R17. -/
inductive OutEvent where
  /-- `ACT(out[0], out[1], out[2], out[3])`, to the actuation collaborator. -/
  | act (o0 o1 o2 o3 : Int)
  /-- `TX(frame)`, the 42 bytes of an accepted submission, `txbuf[0]` first (20_memory.md R75). -/
  | tx (frame : List Byte)
  /-- `CNT_CLR(i)`, the clear of a counter. -/
  | cntClr (i : Axis)
  /-- `POS(i, v)`, the answer to a position read. -/
  | pos (i : Axis) (v : Int)
  deriving DecidableEq, Repr

/-- AWAIT_HEADER (10_state.md R41). -/
def awaitHeader : BitVec 2 := 0#2

/-- RECEIVING_PAYLOAD (10_state.md R41). -/
def receivingPayload : BitVec 2 := 1#2

/-- AWAIT_TAIL (10_state.md R41). -/
def awaitTail : BitVec 2 := 2#2

/-- NONE, the code of `commit_idx` when no commit is in progress (10_state.md R44). -/
def commitNone : BitVec 4 := 0xF#4

/-- The whole state. `cfg` and `input` are the model's own fields; every other field is a state element of the
spec. -/
structure State where
  /-- The configuration of this model instance (00_scope.md R7). No operation writes it (log 1). -/
  cfg : Config
  /-- The event words still to be performed, the next one first (30_encoding.md R110; log 2). -/
  input : List EventWord
  /-- `cnt[i]`, the hardware counters, unsigned, CNT_W bits (10_state.md R32): environment state. -/
  cnt : PerAxis Nat
  /-- The bank of four per-axis records (10_state.md R30). -/
  axes : PerAxis AxisState
  /-- `ramp_en`, element S4 (10_state.md R40, R52). -/
  rampEn : Bool
  /-- `dec_state`, element S0 (10_state.md R41, R52). -/
  decState : BitVec 2
  /-- `pl_cnt`, element S1 (10_state.md R42, R52). -/
  plCnt : BitVec 4
  /-- `pl[0..8]`, the payload buffer (10_state.md R43). -/
  pl : Memory
  /-- `commit_idx`, element S2 (10_state.md R44, R52). -/
  commitIdx : BitVec 4
  /-- `win[0]`, the oldest byte of the detector window, element S3 (10_state.md R45, R52). -/
  win0 : Byte
  /-- `win[1]` (10_state.md R45). -/
  win1 : Byte
  /-- `win[2]`, the newest byte of the detector window (10_state.md R45). -/
  win2 : Byte
  /-- `busy`, element S5 (10_state.md R46, R52). -/
  busy : Bool
  /-- `txbuf[0..41]`, the telemetry buffer (10_state.md R47). -/
  txbuf : Memory
  /-- `hist`, the output history, the oldest event first (10_state.md R48). -/
  hist : List OutEvent
  deriving DecidableEq, Repr

/-- Why the block has no next step. The block itself raises no exception (60_exceptions.md R300): the first two are
the stuck states of 30_encoding.md R114, the third is an access outside a buffer, which no rule forms (20_memory.md R70).
-/
inductive Fault where
  /-- RX_BYTE while `commit_idx` ≠ NONE: not enabled (43_command_decoder.md R200). Raised by `execRxByte`. Safe: the
  spec gives this word no step; the transport holds the byte (R201). -/
  | rxNotReady
  /-- COMMIT_STEP while `commit_idx` = NONE: not enabled (43_command_decoder.md R206). Raised by `execCommitStep`. Safe:
  the spec gives this word no step. -/
  | noCommitPending
  /-- A payload byte at an offset outside `pl` (20_memory.md R70). Raised by DEC_STEP in RECEIVING_PAYLOAD with `pl_cnt`
  ≥ 9, which no run from INIT reaches (log 6). Safe: the machine stops where the rules form no access. -/
  | outsidePayload
  deriving DecidableEq, Repr

/-- What the model's boundary does not accept (60_exceptions.md R303). -/
inductive Refusal where
  /-- An instruction without a meaning: raised by no arm of `exec`, since all seventeen have one. Safe: nothing is
  claimed of it. -/
  | notModelled (mnemonic : String)
  /-- An event word the encoding gives no meaning (30_encoding.md R113). Raised by `step`. Safe: the spec gives it no
  meaning and no step. -/
  | badEventWord (e : DecodeError)
  /-- A configuration that breaks 00_scope.md R8. Raised by `step`. Safe: the spec gives it no meaning. -/
  | illegalConfig
  deriving DecidableEq, Repr

/-- The machine right after reset: every element as 10_state.md R55 gives it after INIT. The history starts empty
(log 4), the configuration is REF (log 1) and no event is waiting (log 2): DESIGN CHOICE, all three. -/
def State.reset : State where
  cfg := Config.ref
  input := []
  cnt := PerAxis.all 0
  axes := PerAxis.all AxisState.zero
  rampEn := false
  decState := awaitHeader
  plCnt := 0#4
  pl := []
  commitIdx := commitNone
  win0 := 0x00#8
  win1 := 0x00#8
  win2 := 0x00#8
  busy := false
  txbuf := []
  hist := []

end Sys2Proof.Machine
end

