-- ==== Sys2Proof/Machine/Operands.lean ====
section
/-! DEFINITION. The arithmetic of the rules (00_scope.md R12, R13) and how an operand is read from a byte
(30_encoding.md R101, R102). -/

namespace Sys2Proof.Machine

open Sys2Proof

/-- `zext_N(v)`: the low N bits of `v` as an unsigned integer (00_scope.md R12). -/
def zext (n : Nat) (v : Int) : Int := v % 2 ^ n

/-- `v[n]`: bit `n` of `v` in two's complement (00_scope.md R11). -/
def bitOf (n : Nat) (v : Int) : Int := v / 2 ^ n % 2

/-- `sext_N(v) = v[N−1:0] − 2^N · v[N−1]` (00_scope.md R12). -/
def sext (n : Nat) (v : Int) : Int := zext n v - 2 ^ n * bitOf (n - 1) v

/-- `wrap_N(v) = sext_N(v mod 2^N)` (00_scope.md R12). -/
def wrap (n : Nat) (v : Int) : Int := sext n (v % 2 ^ n)

/-- `tdiv(a, b) = sign(a)·sign(b)·⌊|a| / |b|⌋`, the quotient truncated toward zero (00_scope.md R13). -/
def tdiv (a b : Int) : Int := a.sign * b.sign * ((a.natAbs / b.natAbs : Nat) : Int)

/-- `clamp(v, lo, hi)` (00_scope.md R13). -/
def clamp (v lo hi : Int) : Int := if v < lo then lo else if hi < v then hi else v

/-- `wrap_32` into the 32-bit two's-complement register `pos[i]` (10_state.md R33). -/
def wrap32 (v : Int) : BitVec 32 := BitVec.ofInt 32 (wrap 32 v)

/-- `v mod 2^CNT_W` as the value of a counter (40_encoder_tracker.md R141). -/
def counterValue (cntW : Nat) (v : Int) : Nat := (zext cntW v).toNat

/-- The "signed 8-bit reinterpretation" `sext_8(b)` of a frame byte, into an 8-bit register (30_encoding.md R102). -/
def int8OfByte (b : Byte) : BitVec 8 := b

/-- Bit 0 of the flag byte; bits 7:1 are ignored (30_encoding.md R101). -/
def flagBit (b : Byte) : Bool := b.getLsbD 0

end Sys2Proof.Machine
end

