-- ==== Sys2Proof/Machine/Ops.lean ====
section
/-! DEFINITION. The named operations over the state: the bytes of a buffer and the multi-byte accesses of
00_scope.md R15, the elements of the per-axis bank, the counters, and the output history. The block takes no exception
and returns from none (60_exceptions.md R300), so there is no such operation here. -/

namespace Sys2Proof.Machine

open Sys2Proof

/-- The byte of a buffer at an offset; an offset that is not listed reads 0x00. -/
def Memory.read (m : Memory) (off : Nat) : Byte :=
  match m with
  | [] => 0x00#8
  | (a, b) :: rest => if a = off then b else Memory.read rest off

/-- Puts a cell before the first cell of a higher offset. -/
def Memory.place (m : Memory) (off : Nat) (b : Byte) : Memory :=
  match m with
  | [] => [(off, b)]
  | c :: rest => if off < c.1 then (off, b) :: c :: rest else c :: Memory.place rest off b

/-- Writes one byte of a buffer and keeps the canonical form: writing what an unlisted offset reads as removes the
entry. -/
def Memory.write (m : Memory) (off : Nat) (b : Byte) : Memory :=
  let others := m.filter (fun c => c.1 ≠ off)
  if b = 0x00#8 then others else Memory.place others off b

/-- `MemRead(buf, off, n)`: `n` bytes as an unsigned little-endian integer (00_scope.md R15). -/
def memRead (m : Memory) (off n : Nat) : Nat :=
  match n with
  | 0 => 0
  | k + 1 => (Memory.read m off).toNat + 256 * memRead m (off + 1) k

/-- `MemWrite(buf, off, n, v)`: `v mod 2^(8n)` to `n` bytes, little-endian (00_scope.md R15). -/
def memWrite (m : Memory) (off n : Nat) (v : Int) : Memory :=
  match n with
  | 0 => m
  | k + 1 => memWrite (Memory.write m off (BitVec.ofInt 8 v)) (off + 1) k (v / 256)

/-- The first `n` bytes of a buffer, offset 0 first (20_memory.md R75). -/
def bytesOf (m : Memory) (n : Nat) : List Byte := (List.range n).map (Memory.read m)

/-- The record of axis `i`. -/
def State.axis (s : State) (i : Axis) : AxisState := s.axes.get i

/-- Replaces the record of axis `i`. -/
def State.setAxis (s : State) (i : Axis) (a : AxisState) : State := { s with axes := s.axes.set i a }

/-- `cnt[i] <- v`, the only write of a counter (10_state.md R32). -/
def State.setCnt (s : State) (i : Axis) (v : Nat) : State := { s with cnt := s.cnt.set i v }

/-- `emit E`: appends an output event to the history (00_scope.md R16; 10_state.md R48). -/
def State.emit (s : State) (e : OutEvent) : State := { s with hist := s.hist ++ [e] }

/-- `cnt[i] <- 0 ; emit CNT_CLR(i)`: the clear of a counter, which SAMPLE and INIT perform (10_state.md R32). -/
def State.clearCnt (s : State) (i : Axis) : State := (s.setCnt i 0).emit (.cntClr i)

/-- `pos[i] <- v` (10_state.md R33). -/
def State.setPos (s : State) (i : Axis) (v : BitVec 32) : State := s.setAxis i { s.axis i with pos := v }

/-- The receive side's `ready = (commit_idx = NONE)` (60_exceptions.md R320; 43_command_decoder.md R201). -/
def State.rxReady (s : State) : Bool := decide (s.commitIdx = commitNone)

/-- The control and status elements S0 … S5 of 10_state.md R52 as numbers, none for another index. S3 is
`{win[2], win[1], win[0]}`. -/
def State.controlElement (s : State) (n : Nat) : Option Nat :=
  match n with
  | 0 => some s.decState.toNat
  | 1 => some s.plCnt.toNat
  | 2 => some s.commitIdx.toNat
  | 3 => some (s.win2 ++ s.win1 ++ s.win0).toNat
  | 4 => some s.rampEn.toNat
  | 5 => some s.busy.toNat
  | _ => none

end Sys2Proof.Machine
end

