-- ==== Sys2Proof/Machine/Boundary.lean ====
section
/-! DEFINITION. The boundary of the model (60_exceptions.md R303): which configurations it accepts (00_scope.md R8), how
it takes the next event word, and what it does when none is waiting. -/

namespace Sys2Proof.Machine

open Sys2Proof

/-- `TEL_RATE < TICK_RATE when the rates are given` (00_scope.md R8). -/
def ratesLegal (tick tel : Option Nat) : Bool :=
  match tick, tel with
  | some t, some l => decide (l < t)
  | _, _ => true

/-- The legality of a configuration (00_scope.md R8). The gains may be any integers. -/
def configLegal (c : Config) : Bool :=
  decide (2 ≤ c.cntW) && decide (c.cntW ≤ 32) && decide (1 ≤ c.posDiv) && decide (1 ≤ c.scale)
    && decide (0 ≤ c.integralLimit) && decide (0 ≤ c.outputLimit) && decide (1 ≤ c.res) && decide (1 ≤ c.rampStep)
    && ratesLegal c.tickRate c.telRate

/-- The next event word and the state that has taken it; none when no event is waiting (30_encoding.md R110). -/
def takeEvent (s : State) : Option (EventWord × State) :=
  match s.input with
  | [] => none
  | w :: rest => some (w, { s with input := rest })

/-- No event is waiting: the block "is idle between events and keeps all its state while idle" (60_exceptions.md R310;
log 3). -/
def idle (s : State) : Host.Outcome State Fault Refusal := .next s

/-- Puts an event word where `takeEvent` takes the next one (log 2). -/
def offerEvent (w : EventWord) (s : State) : State := { s with input := w :: s.input }

end Sys2Proof.Machine
end

