-- ==== Sys2Proof/Machine/Flags.lean ====
section
/-! DEFINITION. The block's two flags, `ramp_en` and `busy` (10_state.md R51). No operation sets a flag as a side effect
of arithmetic, so there is no flag computation; these are the writes the rules name. -/

namespace Sys2Proof.Machine

open Sys2Proof

/-- `ramp_en <- v`, written by COMMIT_STEP and INIT only (10_state.md R40). -/
def State.setRampEn (s : State) (v : Bool) : State := { s with rampEn := v }

/-- `busy <- 1`, by TEL_TICK on an accepted submission only (10_state.md R46). -/
def State.setBusy (s : State) : State := { s with busy := true }

/-- `busy <- 0`, by TX_DONE, TX_ERR and INIT only (10_state.md R46). -/
def State.clearBusy (s : State) : State := { s with busy := false }

end Sys2Proof.Machine
end

