-- ==== Sys2Proof/Machine/Tracker.lean ====
section
/-! DEFINITION. The quadrature position and delta tracker: ENC_ADD, SAMPLE, RESET_ALL, POS_READ (40_encoder_tracker.md).
-/

namespace Sys2Proof.Machine

open Sys2Proof

/-- SAMPLE(i) (40_encoder_tracker.md R142): the wrap-aware delta, and the state with the counter cleared, the delta
stored and the position accumulated. -/
def sampleAxis (i : Axis) (s : State) : Int × State :=
  let d := sext s.cfg.cntW ((s.cnt.get i : Int) - 0)
  let s1 := s.clearCnt i
  let s2 := s1.setAxis i { s1.axis i with lastDelta := d }
  let s3 := s2.setPos i (wrap32 ((s2.axis i).pos.toInt + tdiv d s.cfg.posDiv))
  (d, s3)

/-- RESET_ALL (40_encoder_tracker.md R144): `pos[i] <- 0` for every axis. -/
def zeroPositions (s : State) : State := Axis.inOrder.foldl (fun t i => t.setPos i 0#32) s

/-- ENC_ADD (40_encoder_tracker.md R141): `cnt[i] <- (cnt[i] + k) mod 2^CNT_W`. -/
def execEncAdd (i : Axis) (k : Int) (s : State) : Host.Outcome State Fault Refusal :=
  .next (s.setCnt i (counterValue s.cfg.cntW ((s.cnt.get i : Int) + k)))

/-- SAMPLE as an operation of its own (40_encoder_tracker.md R142; log 8). -/
def execSample (i : Axis) (s : State) : Host.Outcome State Fault Refusal := .next (sampleAxis i s).2

/-- RESET_ALL as an operation of its own (40_encoder_tracker.md R144; log 8). -/
def execResetAll (s : State) : Host.Outcome State Fault Refusal := .next (zeroPositions s)

/-- POS_READ (40_encoder_tracker.md R145): `emit POS(i, pos[i])`. -/
def execPosRead (i : Axis) (s : State) : Host.Outcome State Fault Refusal := .next (s.emit (.pos i (s.axis i).pos.toInt))

end Sys2Proof.Machine
end

