-- ==== Sys2Proof/Machine/CommandDecoder.lean ====
section
/-! DEFINITION. The command frame decoder and the reset-sequence detector: RX_BYTE, DET_STEP, DEC_STEP, COMMIT_STEP
(43_command_decoder.md). -/

namespace Sys2Proof.Machine

open Sys2Proof

/-- `win[0] <- win[1]; win[1] <- win[2]; win[2] <- b` (43_command_decoder.md R202). -/
def State.shiftWindow (s : State) (b : Byte) : State := { s with win0 := s.win1, win1 := s.win2, win2 := b }

/-- All three window bytes set to 0x00 (43_command_decoder.md R202). -/
def State.clearWindow (s : State) : State := { s with win0 := 0x00#8, win1 := 0x00#8, win2 := 0x00#8 }

/-- DET_STEP(b) (43_command_decoder.md R202). -/
def detectByte (b : Byte) (s : State) : State :=
  let s1 := s.shiftWindow b
  if [s1.win0, s1.win1, s1.win2] = resetSeq then (zeroPositions s1).clearWindow else s1

/-- DEC_STEP(b) (43_command_decoder.md R203). An offset outside `pl` is never formed (20_memory.md R70): a state that
would form one stops (log 6). The unused code 3 is decoded as AWAIT_HEADER (10_state.md R41). -/
def decodeByte (b : Byte) (s : State) : Except Fault State :=
  if s.decState = receivingPayload then
    if s.plCnt.toNat < payloadLen then
      let s1 := { s with pl := memWrite s.pl s.plCnt.toNat 1 (b.toNat : Int), plCnt := s.plCnt + 1#4 }
      .ok (if s1.plCnt.toNat = payloadLen then { s1 with decState := awaitTail } else s1)
    else .error .outsidePayload
  else if s.decState = awaitTail then
    .ok { s with
      commitIdx := if b = tail then 0#4 else s.commitIdx
      decState := awaitHeader
      plCnt := 0#4 }
  else .ok (if b = header then { s with decState := receivingPayload, plCnt := 0#4 } else s)

/-- The outcome of an operation that may stop. -/
def outcomeOf (r : Except Fault State) : Host.Outcome State Fault Refusal :=
  match r with
  | .ok s => .next s
  | .error f => .fault f

/-- RX_BYTE(b) (43_command_decoder.md R200): enabled only when `commit_idx` = NONE; DET_STEP, then DEC_STEP. -/
def execRxByte (b : Byte) (s : State) : Host.Outcome State Fault Refusal :=
  if s.rxReady then outcomeOf (decodeByte b (detectByte b s)) else .fault .rxNotReady

/-- DET_STEP as an operation of its own (43_command_decoder.md R202; log 8). -/
def execDetStep (b : Byte) (s : State) : Host.Outcome State Fault Refusal := .next (detectByte b s)

/-- DEC_STEP as an operation of its own (43_command_decoder.md R203; log 8). -/
def execDecStep (b : Byte) (s : State) : Host.Outcome State Fault Refusal := outcomeOf (decodeByte b s)

/-- The payload byte `pl[k]`, `MemRead(pl, k, 1)` (43_command_decoder.md R206). -/
def payloadByte (s : State) (k : Nat) : Byte := BitVec.ofNat 8 (memRead s.pl k 1)

/-- The axis of a field index 0 … 3. -/
def axisOfIndex (k : Nat) : Axis := axisOfField (BitVec.ofNat 2 k)

/-- The write of field `k` of the frame into the command state (43_command_decoder.md R206). -/
def commitField (k : Nat) (s : State) : State :=
  if k ≤ 3 then
    let i := axisOfIndex k
    s.setAxis i { s.axis i with target := int8OfByte (payloadByte s k) }
  else if k = 4 then s.setRampEn (flagBit (payloadByte s 4))
  else if k ≤ 8 then
    let i := axisOfIndex (k - 5)
    s.setAxis i { s.axis i with bias := int8OfByte (payloadByte s k) }
  else s

/-- `(k = 8) ? NONE : k + 1` (43_command_decoder.md R206; for the unused codes 9 … 14, log 7). -/
def nextCommitIdx (k : BitVec 4) : BitVec 4 := if k = 8#4 then commitNone else k + 1#4

/-- COMMIT_STEP (43_command_decoder.md R206): enabled only when `commit_idx` ≠ NONE. -/
def execCommitStep (s : State) : Host.Outcome State Fault Refusal :=
  if s.commitIdx = commitNone then .fault .noCommitPending
  else .next { commitField s.commitIdx.toNat s with commitIdx := nextCommitIdx s.commitIdx }

end Sys2Proof.Machine
end

