-- ==== Sys2Proof/Machine/Pid.lean ====
section
/-! DEFINITION. The fixed-point PID engine: PID_STEP (41_pid.md). -/

namespace Sys2Proof.Machine

open Sys2Proof

/-- PID_STEP(i, sp, meas) (41_pid.md R161): the output, and the state with the integral, the output and the previous
error written. -/
def pidAxis (i : Axis) (sp meas : Int) (s : State) : Int × State :=
  let c := s.cfg
  let e := sp - meas
  let s1 := s.setAxis i { s.axis i with integ := clamp ((s.axis i).integ + e) (-c.integralLimit) c.integralLimit }
  let dv := e - (s1.axis i).prevErr
  let sum := c.kp.get i * e + c.ki.get i * (s1.axis i).integ + c.kd.get i * dv
  let raw := tdiv sum c.scale
  let s2 := s1.setAxis i { s1.axis i with out := clamp raw (-c.outputLimit) c.outputLimit }
  let s3 := s2.setAxis i { s2.axis i with prevErr := e }
  ((s3.axis i).out, s3)

/-- PID_STEP as an operation of its own (41_pid.md R161; log 8). -/
def execPidStep (i : Axis) (sp meas : Int) (s : State) : Host.Outcome State Fault Refusal := .next (pidAxis i sp meas s).2

end Sys2Proof.Machine
end

