-- ==== Sys2Proof/Machine/Ramp.lean ====
section
/-! DEFINITION. The trapezoidal speed ramp limiter: RAMP_ADVANCE (42_ramp.md). -/

namespace Sys2Proof.Machine

open Sys2Proof

/-- RAMP_ADVANCE(i, t, en) (42_ramp.md R181): the native setpoint, and the state with `ramp[i]` moved. -/
def rampAxis (i : Axis) (t : Int) (en : Bool) (s : State) : Int × State :=
  let c := s.cfg
  let a := s.axis i
  let g := t * c.res
  let d := g - a.ramp
  let ramp := if en = false then g else if (d.natAbs : Int) < c.rampStep then g else a.ramp + d.sign * c.rampStep
  (tdiv ramp c.res, s.setAxis i { a with ramp := ramp })

/-- RAMP_ADVANCE as an operation of its own (42_ramp.md R181; log 8). -/
def execRampAdvance (i : Axis) (t : Int) (en : Bool) (s : State) : Host.Outcome State Fault Refusal :=
  .next (rampAxis i t en s).2

end Sys2Proof.Machine
end

