-- ==== Sys2Proof/Machine/Control.lean ====
section
/-! DEFINITION. The control tick orchestrator and the initialisation: CTRL_TICK, ACTUATE, INIT (45_control_tick.md). -/

namespace Sys2Proof.Machine

open Sys2Proof

/-- One axis of a control tick (45_control_tick.md R271): sample, ramp, add the bias, PID. -/
def tickAxis (en : Bool) (s : State) (i : Axis) : State :=
  let (d, s1) := sampleAxis i s
  let (r, s2) := rampAxis i (s1.axis i).target.toInt en s1
  let sp := r + (s2.axis i).bias.toInt
  (pidAxis i sp d s2).2

/-- ACTUATE (45_control_tick.md R272): `emit ACT(out[0], out[1], out[2], out[3])`. -/
def actuateAll (s : State) : State :=
  s.emit (.act (s.axis .A).out (s.axis .B).out (s.axis .C).out (s.axis .D).out)

/-- CTRL_TICK (45_control_tick.md R271): `ramp_en` is read once for all four axes. -/
def execCtrlTick (s : State) : Host.Outcome State Fault Refusal :=
  .next (actuateAll (Axis.inOrder.foldl (tickAxis s.rampEn) s))

/-- ACTUATE as an operation of its own (45_control_tick.md R272; log 8). -/
def execActuate (s : State) : Host.Outcome State Fault Refusal := .next (actuateAll s)

/-- INIT (45_control_tick.md R275): every element to its reset value of 10_state.md R55, each counter cleared with
CNT_CLR. The output history is kept. -/
def initialise (s : State) : State :=
  let s1 := Axis.inOrder.foldl (fun t i => (t.setAxis i AxisState.zero).clearCnt i) s
  let s2 := s1.setRampEn false
  let s3 := { s2 with decState := awaitHeader, plCnt := 0#4, pl := [], commitIdx := commitNone }
  let s4 := { s3 with win0 := 0x00#8, win1 := 0x00#8, win2 := 0x00#8 }
  { s4.clearBusy with txbuf := [] }

/-- INIT (45_control_tick.md R275). -/
def execInit (s : State) : Host.Outcome State Fault Refusal := .next (initialise s)

end Sys2Proof.Machine
end

