-- ==== Sys2Proof/Machine/Telemetry.lean ====
section
/-! DEFINITION. The telemetry frame encoder and transmitter: TEL_TICK, TLM_ASSEMBLE, TX_DONE, TX_ERR (44_telemetry.md).
-/

namespace Sys2Proof.Machine

open Sys2Proof

/-- Offset of axis `i`'s target field, an int16 (30_encoding.md R105). -/
def targetOffset (i : Axis) : Nat := 1 + 2 * i.index

/-- Offset of axis `i`'s position field, an int32 (30_encoding.md R105). -/
def positionOffset (i : Axis) : Nat := 9 + 4 * i.index

/-- Offset of axis `i`'s speed field, an int32 (30_encoding.md R105). -/
def speedOffset (i : Axis) : Nat := 25 + 4 * i.index

/-- Offset of the tail (30_encoding.md R105). -/
def tailOffset : Nat := 41

/-- TLM_ASSEMBLE's writes (44_telemetry.md R242), in the order of its pseudocode. -/
def assembledBuffer (s : State) : Memory :=
  let m1 := memWrite s.txbuf 0 1 (header.toNat : Int)
  let m2 := Axis.inOrder.foldl (fun m i => memWrite m (targetOffset i) 2 (sext 16 (s.axis i).target.toInt)) m1
  let m3 := Axis.inOrder.foldl (fun m i => memWrite m (positionOffset i) 4 (s.axis i).pos.toInt) m2
  let m4 := Axis.inOrder.foldl (fun m i => memWrite m (speedOffset i) 4 (sext 32 (s.axis i).lastDelta)) m3
  memWrite m4 tailOffset 1 (tail.toNat : Int)

/-- TLM_ASSEMBLE (44_telemetry.md R242). -/
def assembleFrame (s : State) : State := { s with txbuf := assembledBuffer s }

/-- The 42 bytes of `txbuf`, as the TX event carries them (00_scope.md R17). -/
def txFrame (s : State) : List Byte := bytesOf s.txbuf telemetryLen

/-- TEL_TICK(acc) (44_telemetry.md R241). -/
def execTelTick (acc : Bool) (s : State) : Host.Outcome State Fault Refusal :=
  if s.busy then .next s
  else
    let s1 := assembleFrame s
    .next (if acc then s1.setBusy.emit (.tx (txFrame s1)) else s1)

/-- TLM_ASSEMBLE as an operation of its own (44_telemetry.md R242; log 8). -/
def execTlmAssemble (s : State) : Host.Outcome State Fault Refusal := .next (assembleFrame s)

/-- TX_DONE (44_telemetry.md R244): `busy <- 0`, in every state. -/
def execTxDone (s : State) : Host.Outcome State Fault Refusal := .next s.clearBusy

/-- TX_ERR (44_telemetry.md R245): `busy <- 0`, in every state; the failed frame is not sent again. -/
def execTxErr (s : State) : Host.Outcome State Fault Refusal := .next s.clearBusy

end Sys2Proof.Machine
end

