-- ==== Sys2Proof/Machine/Dispatch.lean ====
section
/-! DEFINITION. The dispatch of an operation to its meaning: one arm per constructor of `Instr`. -/

namespace Sys2Proof.Machine

open Sys2Proof

def exec (i : Instr) (s : State) : Host.Outcome State Fault Refusal :=
  match i with
  -- the events (30_encoding.md R111)
  | .init => Sys2Proof.Machine.execInit s
  | .ctrlTick => Sys2Proof.Machine.execCtrlTick s
  | .telTick acc => Sys2Proof.Machine.execTelTick acc s
  | .rxByte b => Sys2Proof.Machine.execRxByte b s
  | .commitStep => Sys2Proof.Machine.execCommitStep s
  | .txDone => Sys2Proof.Machine.execTxDone s
  | .txErr => Sys2Proof.Machine.execTxErr s
  | .posRead ax => Sys2Proof.Machine.execPosRead ax s
  | .encAdd ax k => Sys2Proof.Machine.execEncAdd ax k s
  -- the internal operations (30_encoding.md R115)
  | .sample ax => Sys2Proof.Machine.execSample ax s
  | .resetAll => Sys2Proof.Machine.execResetAll s
  | .rampAdvance ax t en => Sys2Proof.Machine.execRampAdvance ax t en s
  | .pidStep ax sp meas => Sys2Proof.Machine.execPidStep ax sp meas s
  | .detStep b => Sys2Proof.Machine.execDetStep b s
  | .decStep b => Sys2Proof.Machine.execDecStep b s
  | .tlmAssemble => Sys2Proof.Machine.execTlmAssemble s
  | .actuate => Sys2Proof.Machine.execActuate s

end Sys2Proof.Machine
end

