-- ==== Sys2Proof/Machine/Step.lean ====
section
/-! DEFINITION. One step: the next event word is taken, decoded and performed as one atomic step (20_memory.md R80). -/

namespace Sys2Proof.Machine

open Sys2Proof

/-- One step. An illegal configuration and a refused event word are refused (60_exceptions.md R303); with no event
waiting the block is idle (R310); otherwise the decoded event is performed. -/
def step (s : State) : Host.Outcome State Fault Refusal :=
  if configLegal s.cfg then
    match takeEvent s with
    | none => idle s
    | some (w, s1) =>
      match decode w with
      | .error e => .refused (.badEventWord e)
      | .ok i => exec i s1
  else .refused .illegalConfig

/-- `s` with the event word of `nbits` bits `w` as the next one `step` takes (log 2). -/
def State.withFetchWord (s : State) (nbits w : Nat) : State := offerEvent (tableWord nbits w) s

end Sys2Proof.Machine
end

