-- ==== Sys2Proof/Machine/Conditions.lean ====
section
/-! DEFINITION. The silent conditions SC1 … SC9 of 60_exceptions.md R301, as observers: the block records none of them in
any state element and reports none, so no operation calls anything of this file. -/

namespace Sys2Proof.Machine

open Sys2Proof

/-- The silent conditions of 60_exceptions.md R301. -/
inductive SilentCondition where
  /-- SC1: a byte other than 0x21 in AWAIT_TAIL. -/
  | frameAbort
  /-- SC2: a byte other than 0x23 in AWAIT_HEADER. -/
  | headerMiss
  /-- SC3: integ + e outside ±INTEGRAL_LIMIT. -/
  | integralSaturation (i : Axis)
  /-- SC4: raw outside ±OUTPUT_LIMIT. -/
  | outputSaturation (i : Axis)
  /-- SC5: TEL_TICK with busy = 1. -/
  | transmitContention
  /-- SC6: TEL_TICK with busy = 0 and acc = 0. -/
  | submissionRejected
  /-- SC7: TX_ERR. -/
  | transmitFailure
  /-- SC8: the last three bytes are 0x21 0x40 0x21. -/
  | resetTrigger
  deriving DecidableEq, Repr

/-- SC9 (60_exceptions.md R301): the true movement `t` lies outside the signed CNT_W-bit range. The state does not hold
`t`, so the condition is a test of `t` alone: "undetectable" by the block. -/
def deltaAlias (c : Config) (t : Int) : Bool := !decide (InSigned c.cntW t)

/-- `v` lies outside ±`limit`. -/
def outsideLimit (v limit : Int) : Bool := decide (v < -limit) || decide (limit < v)

/-- The list with `c` in it when `p` holds. -/
def when (p : Bool) (c : SilentCondition) : List SilentCondition := if p then [c] else []

/-- SC3 and SC4 of one PID_STEP. -/
def pidConditions (i : Axis) (sp meas : Int) (s : State) : List SilentCondition :=
  let e := sp - meas
  let a := s.axis i
  let integ := clamp (a.integ + e) (-s.cfg.integralLimit) s.cfg.integralLimit
  let sum := s.cfg.kp.get i * e + s.cfg.ki.get i * integ + s.cfg.kd.get i * (e - a.prevErr)
  when (outsideLimit (a.integ + e) s.cfg.integralLimit) (.integralSaturation i)
    ++ when (outsideLimit (tdiv sum s.cfg.scale) s.cfg.outputLimit) (.outputSaturation i)

/-- SC3 and SC4 of one axis of a control tick. -/
def tickConditions (i : Axis) (s : State) : List SilentCondition :=
  let (d, s1) := sampleAxis i s
  let (r, s2) := rampAxis i (s1.axis i).target.toInt s.rampEn s1
  pidConditions i (r + (s2.axis i).bias.toInt) d s2

/-- SC8 of one DET_STEP. -/
def detectorConditions (b : Byte) (s : State) : List SilentCondition :=
  when (decide ([s.win1, s.win2, b] = resetSeq)) .resetTrigger

/-- SC1 and SC2 of one DEC_STEP. -/
def decoderConditions (b : Byte) (s : State) : List SilentCondition :=
  when (decide (s.decState = awaitTail ∧ b ≠ tail)) .frameAbort
    ++ when (decide (s.decState ≠ awaitTail ∧ s.decState ≠ receivingPayload ∧ b ≠ header)) .headerMiss

/-- The silent conditions an operation meets in a state (60_exceptions.md R301, R302), SC9 apart. -/
def silentConditions (i : Instr) (s : State) : List SilentCondition :=
  match i with
  | .ctrlTick => Axis.inOrder.flatMap (fun ax => tickConditions ax s)
  | .pidStep ax sp meas => pidConditions ax sp meas s
  | .telTick acc => when s.busy .transmitContention ++ when (!s.busy && !acc) .submissionRejected
  | .txErr => [.transmitFailure]
  | .rxByte b => if s.rxReady then detectorConditions b s ++ decoderConditions b s else []
  | .detStep b => detectorConditions b s
  | .decStep b => decoderConditions b s
  | .init | .commitStep | .txDone | .posRead _ | .encAdd _ _ => []
  | .sample _ | .resetAll | .rampAdvance _ _ _ | .tlmAssemble | .actuate => []

end Sys2Proof.Machine
end

