-- ==== Sys2Proof/Machine/Trace.lean ====
section
/-! DEFINITION. The trace syntax (30_encoding.md R117) and its pseudo-instructions (R118): a text spells a list of
events, one statement per line. -/

namespace Sys2Proof.Machine

open Sys2Proof

/-- `rx` of `v mod 256` (30_encoding.md R118). -/
def traceRx (v : Int) : Instr := .rxByte (BitVec.ofInt 8 v)

/-- `rst` (30_encoding.md R118). -/
def traceRst : List Instr := resetSeq.map .rxByte

/-- `commit9` (30_encoding.md R118). -/
def traceCommit9 : List Instr := List.replicate 9 .commitStep

/-- `frame t0 t1 t2 t3 f b0 b1 b2 b3` (30_encoding.md R118). -/
def traceFrame (t : PerAxis Int) (f : Byte) (b : PerAxis Int) : List Instr :=
  [.rxByte header, traceRx t.a, traceRx t.b, traceRx t.c, traceRx t.d, .rxByte f, traceRx b.a, traceRx b.b, traceRx b.c,
    traceRx b.d, .rxByte tail]

/-- `cmd t0 … b3` (30_encoding.md R118). -/
def traceCmd (t : PerAxis Int) (f : Byte) (b : PerAxis Int) : List Instr := traceFrame t f b ++ traceCommit9

/-- `rxs "text"`: one `rx` per character, as its ASCII code (30_encoding.md R118). -/
def traceRxs (text : List Char) : Option (List Instr) :=
  text.mapM fun c => if c.toNat < 128 then some (.rxByte (BitVec.ofNat 8 c.toNat)) else none

/-- A token of a line: a bare word, a quoted character `'c'`, or a quoted text `"…"` (log 18). -/
inductive TraceToken where
  | word (w : List Char)
  | char (c : Char)
  | text (t : List Char)
  deriving DecidableEq, Repr

/-- The bare word collected so far (in reverse), as a token if there is one. -/
def endWord (w : List Char) : List TraceToken := if w.isEmpty then [] else [.word w.reverse]

/-- The tokens of a line, its comment dropped (30_encoding.md R117). `word` and `quoted` hold, in reverse, the bare word
and the quoted text being read; none when a quoted text does not end. -/
def traceTokens (line word : List Char) (quoted : Option (List Char)) : Option (List TraceToken) :=
  match line, quoted with
  | [], none => some (endWord word)
  | [], some _ => none
  | '"' :: rest, some t => (traceTokens rest [] none).map (.text t.reverse :: ·)
  | c :: rest, some t => traceTokens rest [] (some (c :: t))
  | ';' :: _, none => some (endWord word)
  | '"' :: rest, none => (traceTokens rest [] (some [])).map (endWord word ++ ·)
  | '\'' :: c :: '\'' :: rest, none => (traceTokens rest [] none).map (endWord word ++ .char c :: ·)
  | c :: rest, none =>
    if c = ' ' ∨ c = '\t' ∨ c = '\r' then (traceTokens rest [] none).map (endWord word ++ ·)
    else traceTokens rest (c :: word) none

/-- The value of a decimal digit. -/
def decimalDigit (c : Char) : Option Nat := if '0' ≤ c ∧ c ≤ '9' then some (c.toNat - '0'.toNat) else none

/-- The value of a hexadecimal digit, of either case (DESIGN CHOICE, log 18). -/
def hexDigit (c : Char) : Option Nat :=
  if 'a' ≤ c ∧ c ≤ 'f' then some (c.toNat - 'a'.toNat + 10)
  else if 'A' ≤ c ∧ c ≤ 'F' then some (c.toNat - 'A'.toNat + 10)
  else decimalDigit c

/-- An unsigned decimal of at least one digit, leading zeros allowed (DESIGN CHOICE, log 18). -/
def decimal (w : List Char) : Option Nat :=
  if w.isEmpty then none else w.foldlM (fun n c => (decimalDigit c).map (10 * n + ·)) 0

/-- A signed decimal within `n` bits (30_encoding.md R117 `int16`, R118 int8 decimals): a minus sign or none. R117 is silent
on an explicit plus sign; the model reads none (DESIGN CHOICE, log 18). -/
def signedDecimal (n : Nat) (w : List Char) : Option Int :=
  let v : Option Int := match w with
    | '-' :: rest => (decimal rest).map (fun m => -(m : Int))
    | _ => (decimal w).map (fun m => (m : Int))
  v.filter (fun m => decide (InSigned n m))

/-- `byte := "0x" hex hex | decimal 0..255 | "'" char "'"` (30_encoding.md R117). -/
def traceByte (t : TraceToken) : Option Byte :=
  match t with
  | .word ['0', 'x', h, l] => do return BitVec.ofNat 8 (16 * (← hexDigit h) + (← hexDigit l))
  | .word w => ((decimal w).filter (· < 256)).map (BitVec.ofNat 8)
  | .char c => if c.toNat < 128 then some (BitVec.ofNat 8 c.toNat) else none
  | .text _ => none

/-- `axis := "A" | "B" | "C" | "D"` (30_encoding.md R117). -/
def traceAxis (t : TraceToken) : Option Axis :=
  match t with
  | .word ['A'] => some .A
  | .word ['B'] => some .B
  | .word ['C'] => some .C
  | .word ['D'] => some .D
  | _ => none

/-- A signed decimal token of `n` bits. -/
def traceInt (n : Nat) (t : TraceToken) : Option Int :=
  match t with
  | .word w => signedDecimal n w
  | _ => none

/-- The nine operands of `frame` and `cmd` (30_encoding.md R118). -/
def traceFields (ts : List TraceToken) : Option (PerAxis Int × Byte × PerAxis Int) :=
  match ts with
  | [t0, t1, t2, t3, f, b0, b1, b2, b3] => do
    return (⟨← traceInt 8 t0, ← traceInt 8 t1, ← traceInt 8 t2, ← traceInt 8 t3⟩, ← traceByte f,
      ⟨← traceInt 8 b0, ← traceInt 8 b1, ← traceInt 8 b2, ← traceInt 8 b3⟩)
  | _ => none

/-- The events of one statement (30_encoding.md R117, R118), none for a text that is no statement. -/
def traceStatement (name : List Char) (operands : List TraceToken) : Option (List Instr) :=
  match String.ofList name, operands with
  | "init", [] => some [.init]
  | "tick", [] => some [.ctrlTick]
  | "tel", [] => some [.telTick true]
  | "tel", [.word ['o', 'k']] => some [.telTick true]
  | "tel", [.word ['r', 'e', 'j', 'e', 'c', 't']] => some [.telTick false]
  | "rx", [t] => (traceByte t).map fun b => [.rxByte b]
  | "commit", [] => some [.commitStep]
  | "txdone", [] => some [.txDone]
  | "txerr", [] => some [.txErr]
  | "pos", [t] => (traceAxis t).map fun i => [.posRead i]
  | "enc", [t, k] => do return [.encAdd (← traceAxis t) (← traceInt 16 k)]
  | "rst", [] => some traceRst
  | "rxs", [.text t] => traceRxs t
  | "commit9", [] => some traceCommit9
  | "frame", ts => (traceFields ts).map fun x => traceFrame x.1 x.2.1 x.2.2
  | "cmd", ts => (traceFields ts).map fun x => traceCmd x.1 x.2.1 x.2.2
  | _, _ => none

/-- The events of one line: `line := [ stmt ] [ ";" comment ]` (30_encoding.md R117). -/
def traceLine (line : List Char) : Option (List Instr) :=
  match traceTokens line [] none with
  | some [] => some []
  | some (.word name :: operands) => traceStatement name operands
  | _ => none

/-- The lines of a text. `line` holds, in reverse, the line being read. R117 ends every line with NEWLINE; a last line that
lacks it is read as a line too (DESIGN CHOICE, log 18). -/
def traceLines (text line : List Char) : List (List Char) :=
  match text with
  | [] => if line.isEmpty then [] else [line.reverse]
  | c :: rest => if c = '\n' then line.reverse :: traceLines rest [] else traceLines rest (c :: line)

/-- The event words of a trace program (30_encoding.md R117: "Each statement spells one event word"; R118). -/
def traceProgram (text : List Char) : Option (List EventWord) := do
  let events ← (traceLines text []).mapM traceLine
  events.flatten.mapM encode

end Sys2Proof.Machine
end

