-- ==== Sys2Proof/Safety.lean ====
section
/-! DEFINITION. The terms claims are stated in: runs of operations, the invariant of the machine, and the duties of the
outside world that make a run safe. -/

namespace Sys2Proof.Machine

open Sys2Proof

/-- The operations of a list performed one after another, stopping at the first that does not complete (20_memory.md
R81: "A run is a sequence of steps"). -/
def runInstrs : List Instr → State → Host.Outcome State Fault Refusal
  | [], s => .next s
  | i :: rest, s =>
    match exec i s with
    | .next t => runInstrs rest t
    | .fault f => .fault f
    | .refused r => .refused r

/-- The ranges of one axis's record (10_state.md R31, R34 to R37; 00_scope.md R10). The ranges of `pos`, `target` and
`bias` are those of their types. -/
structure AxisInv (c : Config) (a : AxisState) : Prop where
  lastDelta : InSigned c.cntW a.lastDelta
  integ : -c.integralLimit ≤ a.integ ∧ a.integ ≤ c.integralLimit
  out : -c.outputLimit ≤ a.out ∧ a.out ≤ c.outputLimit
  ramp : -128 * c.res ≤ a.ramp ∧ a.ramp ≤ 127 * c.res
  prevErr : -(2 ^ (c.cntW - 1) + 255) ≤ a.prevErr ∧ a.prevErr ≤ 2 ^ (c.cntW - 1) + 254

/-- An output event the block can emit: the outputs of ACT lie within ±OUTPUT_LIMIT (45_control_tick.md R272); a TX frame
has 42 bytes, the first 0x23 and the last 0x21 (30_encoding.md R105); a position is an int32 (10_state.md R33). -/
def OutEvent.Ok (c : Config) : OutEvent → Prop
  | .act o0 o1 o2 o3 => ∀ o ∈ [o0, o1, o2, o3], -c.outputLimit ≤ o ∧ o ≤ c.outputLimit
  | .tx frame => frame.length = telemetryLen ∧ frame.head? = some header ∧ frame.getLast? = some tail
  | .cntClr _ => True
  | .pos _ v => InSigned 32 v

/-- The legal codes of the decoder and of the commit (10_state.md R41, R42, R44, R52): the payload counter fits the
decoder state, and a commit runs only with the decoder in AWAIT_HEADER. -/
structure DecoderInv (s : State) : Prop where
  codes : s.decState = awaitHeader ∧ s.plCnt = 0#4 ∨ s.decState = receivingPayload ∧ s.plCnt.toNat < payloadLen ∨
    s.decState = awaitTail ∧ s.plCnt.toNat = payloadLen
  commit : s.commitIdx = commitNone ∨ s.commitIdx.toNat ≤ 8 ∧ s.decState = awaitHeader

/-- The invariant of the machine. -/
structure Inv (s : State) : Prop where
  config : configLegal s.cfg = true
  counters : ∀ i, s.cnt.get i < 2 ^ s.cfg.cntW
  axes : ∀ i, AxisInv s.cfg (s.axis i)
  decoder : DecoderInv s
  payload : Memory.wf payloadLen s.pl
  telemetry : Memory.wf telemetryLen s.txbuf
  history : ∀ e ∈ s.hist, e.Ok s.cfg

/-- The TX events of a history, in order. -/
def txEvents (h : List OutEvent) : List OutEvent :=
  h.filter fun e => match e with
    | .tx _ => true
    | .act _ _ _ _ | .cntClr _ | .pos _ _ => false

/-- The events that clear `busy` (10_state.md R46). -/
def clearsBusy (i : Instr) : Bool :=
  match i with
  | .init | .txDone | .txErr => true
  | .ctrlTick | .telTick _ | .rxByte _ | .commitStep | .posRead _ | .encAdd _ _ => false
  | .sample _ | .resetAll | .rampAdvance _ _ _ | .pidStep _ _ _ | .detStep _ | .decStep _ | .tlmAssemble | .actuate =>
    false

/-- What the decoder and the command state hold: the elements of 43_command_decoder.md R208's first clause. -/
structure DecoderView where
  decState : BitVec 2
  plCnt : BitVec 4
  pl : Memory
  commitIdx : BitVec 4
  rampEn : Bool
  targets : PerAxis (BitVec 8)
  biases : PerAxis (BitVec 8)
  deriving DecidableEq, Repr

/-- The decoder elements and the command state of a state (43_command_decoder.md R208; 00_scope.md R19). -/
def State.decoderView (s : State) : DecoderView where
  decState := s.decState
  plCnt := s.plCnt
  pl := s.pl
  commitIdx := s.commitIdx
  rampEn := s.rampEn
  targets := ⟨s.axes.a.target, s.axes.b.target, s.axes.c.target, s.axes.d.target⟩
  biases := ⟨s.axes.a.bias, s.axes.b.bias, s.axes.c.bias, s.axes.d.bias⟩

/-- The boot order's second duty: INIT is the first event (70_reset_and_hazards.md R343). -/
def InitFirst (events : List Instr) : Prop := events.head? = some .init

/-- The sampling duty of one control tick for one axis: the net movement `t` since the last sample lies in the signed
CNT_W-bit range (70_reset_and_hazards.md R345). -/
abbrev SampledInTime (c : Config) (t : Int) : Prop := InSigned c.cntW t

/-- A byte sequence that holds the reset trigger somewhere (70_reset_and_hazards.md R348). -/
def HoldsTrigger (bytes : List Byte) : Prop := resetSeq <:+: bytes

end Sys2Proof.Machine
end

