-- ==== Sys2Proof/Certificates/Slice0/Obligations.lean ====
section
/-! DEFINITION. The statements for the provers. Where a rule has a formula, the statement writes it in the library's
terms (`Int.tdiv`, `Int.bmod`, `max`, `min`), not through the model's own functions. -/

open Sys2Proof Sys2Proof.Machine

/-! ### The event word -/

/-- R119: the worked encodings, each statement of the trace syntax, as a line ended by NEWLINE (R117), with the event it
spells and its word. -/
def Obligations.WorkedEventWords : Prop :=
  ∀ r ∈ [("init", Instr.init, 0x10000000#32), ("tick", .ctrlTick, 0x20000000#32), ("tel ok", .telTick true, 0x30000001#32),
      ("tel reject", .telTick false, 0x30000000#32), ("rx 0x23", .rxByte 0x23#8, 0x40000023#32),
      ("commit", .commitStep, 0x50000000#32), ("txdone", .txDone, 0x60000000#32), ("txerr", .txErr, 0x70000000#32),
      ("pos C", .posRead .C, 0x88000000#32), ("enc B -5", .encAdd .B (-5), 0x9400FFFB#32),
      ("enc D 300", .encAdd .D 300, 0x9C00012C#32)],
    traceProgram (r.1.toList ++ ['\n']) = some [r.2.2] ∧ encode r.2.1 = some r.2.2 ∧ decode r.2.2 = .ok r.2.1

/-- R110, R111, R112: what each legal word decodes to, by its fields `ev` (31:28), `ax` (27:26), `rsv` (25:16) and `data`
(15:0); no other word decodes. -/
def Obligations.EventWordMeaning : Prop :=
  ∀ (w : EventWord) (i : Instr), decode w = .ok i ↔ w.extractLsb' 16 10 = 0#10 ∧
    (w.extractLsb' 28 4 = 0x1#4 ∧ w.extractLsb' 26 2 = 0#2 ∧ w.extractLsb' 0 16 = 0#16 ∧ i = .init ∨
      w.extractLsb' 28 4 = 0x2#4 ∧ w.extractLsb' 26 2 = 0#2 ∧ w.extractLsb' 0 16 = 0#16 ∧ i = .ctrlTick ∨
      w.extractLsb' 28 4 = 0x3#4 ∧ w.extractLsb' 26 2 = 0#2 ∧ w.extractLsb' 1 15 = 0#15 ∧ i = .telTick (w.getLsbD 0) ∨
      w.extractLsb' 28 4 = 0x4#4 ∧ w.extractLsb' 26 2 = 0#2 ∧ w.extractLsb' 8 8 = 0#8 ∧
        i = .rxByte (w.extractLsb' 0 8) ∨
      w.extractLsb' 28 4 = 0x5#4 ∧ w.extractLsb' 26 2 = 0#2 ∧ w.extractLsb' 0 16 = 0#16 ∧ i = .commitStep ∨
      w.extractLsb' 28 4 = 0x6#4 ∧ w.extractLsb' 26 2 = 0#2 ∧ w.extractLsb' 0 16 = 0#16 ∧ i = .txDone ∨
      w.extractLsb' 28 4 = 0x7#4 ∧ w.extractLsb' 26 2 = 0#2 ∧ w.extractLsb' 0 16 = 0#16 ∧ i = .txErr ∨
      w.extractLsb' 28 4 = 0x8#4 ∧ w.extractLsb' 0 16 = 0#16 ∧
        (∃ x : Axis, (w.extractLsb' 26 2).toNat = x.index ∧ i = .posRead x) ∨
      w.extractLsb' 28 4 = 0x9#4 ∧
        ∃ x : Axis, (w.extractLsb' 26 2).toNat = x.index ∧ i = .encAdd x (w.extractLsb' 0 16).toInt)

/-- R110 to R112: every well-formed event has a word, and the word decodes to the event again. -/
def Obligations.DecodeEncodeRoundTrip : Prop :=
  ∀ i : Instr, i.isEvent = true → i.wellFormed = true → ∃ w, encode i = some w ∧ decode w = .ok i

/-- R110 to R115: a word that decodes is the word of a well-formed event, so each legal word has one meaning; an internal
operation has no word, and none decodes to it. -/
def Obligations.DecodedWordEncodesBack : Prop :=
  (∀ w i, decode w = .ok i → i.isEvent = true ∧ i.wellFormed = true ∧ encode i = some w) ∧
    ∀ i : Instr, i.isEvent = false → encode i = none ∧ ∀ w, decode w ≠ .ok i

/-- R113: the words the model refuses, by the fields of R110 and the operands of R112; a refused word has no step. -/
def Obligations.RefusedEventWords : Prop :=
  ∀ w : EventWord,
    ((∃ e, decode w = .error e) ↔
      w.extractLsb' 28 4 = 0#4 ∨ 10 ≤ (w.extractLsb' 28 4).toNat ∨ w.extractLsb' 16 10 ≠ 0#10 ∨
      (w.extractLsb' 26 2 ≠ 0#2 ∧ w.extractLsb' 28 4 ≠ 8#4 ∧ w.extractLsb' 28 4 ≠ 9#4) ∨
      (w.extractLsb' 0 16 ≠ 0#16 ∧ w.extractLsb' 28 4 ≠ 3#4 ∧ w.extractLsb' 28 4 ≠ 4#4 ∧ w.extractLsb' 28 4 ≠ 9#4) ∨
      (w.extractLsb' 1 15 ≠ 0#15 ∧ w.extractLsb' 28 4 = 3#4) ∨ (w.extractLsb' 8 8 ≠ 0#8 ∧ w.extractLsb' 28 4 = 4#4)) ∧
    ∀ (s : State) (rest : List EventWord) (e : DecodeError), configLegal s.cfg = true → s.input = w :: rest →
      decode w = .error e → step s = .refused (.badEventWord e)

/-- spec/opcode_table.json: a word decodes exactly when it belongs to an event row of the table, and then to that row's
event. -/
def Obligations.OpcodeTableDecides : Prop :=
  (∀ w i, decode w = .ok i → ∃ r ∈ eventRows, eventRow i = some r ∧ r.fits w = true) ∧
    ∀ w, ∀ r ∈ eventRows, r.fits w = true → ∃ i, decode w = .ok i ∧ eventRow i = some r

/-! ### The step -/

/-- R80, R110: when the next event word decodes to `i`, the step is the performance of `i` on the state that has taken the
word; `withFetchWord` puts a word where the step takes it. -/
def Obligations.StepRunsDecodedEvent : Prop :=
  (∀ (s : State) w rest i, configLegal s.cfg = true → s.input = w :: rest → decode w = .ok i →
    step s = exec i { s with input := rest }) ∧
  ∀ (s : State) (w : EventWord) i, configLegal s.cfg = true → decode w = .ok i →
    step (s.withFetchWord 32 w.toNat) = exec i s

/-- R310: with no event waiting the block keeps all its state (log 3: the model shows idling as a step). -/
def Obligations.IdleKeepsState : Prop :=
  ∀ s : State, configLegal s.cfg = true → s.input = [] → step s = .next s

/-- R8: exactly the configurations that break one of the constraints are refused; the gains may be any integers. -/
def Obligations.IllegalConfigurationRefused : Prop :=
  ∀ s : State, step s = .refused .illegalConfig ↔
    ¬ (2 ≤ s.cfg.cntW ∧ s.cfg.cntW ≤ 32 ∧ 1 ≤ s.cfg.posDiv ∧ 1 ≤ s.cfg.scale ∧ 0 ≤ s.cfg.integralLimit ∧
      0 ≤ s.cfg.outputLimit ∧ 1 ≤ s.cfg.res ∧ 1 ≤ s.cfg.rampStep ∧
      ∀ t l, s.cfg.tickRate = some t → s.cfg.telRate = some l → l < t)

/-! ### What each operation does: its result, and that it leaves everything else as it was -/

/-- R141: ENC_ADD adds modulo 2^CNT_W to one counter, in every state, and changes nothing else; its word is event code 9,
the axis, and the increment in two's complement. -/
def Obligations.EncAddResult : Prop :=
  (∀ (i : Axis) (k : Int) (s : State), exec (.encAdd i k) s = .next { s with
    cnt := s.cnt.set i (((s.cnt.get i : Int) + k) % 2 ^ s.cfg.cntW).toNat }) ∧
  ∀ (i : Axis) (d : BitVec 16), decode (0x9#4 ++ BitVec.ofNat 2 i.index ++ 0#10 ++ d) = .ok (.encAdd i d.toInt)

/-- R142: SAMPLE stores the wrap-aware delta, adds its truncated quotient to the wrapping position, clears the counter and
emits the clear; nothing else changes. -/
def Obligations.SampleResult : Prop :=
  ∀ (i : Axis) (s : State), 1 ≤ s.cfg.cntW →
    exec (.sample i) s = .next { s with
      cnt := s.cnt.set i 0
      axes := s.axes.set i { s.axes.get i with
        lastDelta := Int.bmod (s.cnt.get i) (2 ^ s.cfg.cntW)
        pos := BitVec.ofInt 32
          ((s.axes.get i).pos.toInt + Int.tdiv (Int.bmod (s.cnt.get i) (2 ^ s.cfg.cntW)) s.cfg.posDiv) }
      hist := s.hist ++ [.cntClr i] }

/-- R144: RESET_ALL zeroes the four positions and leaves every other element unchanged. -/
def Obligations.ResetAllResult : Prop :=
  ∀ s : State, ∃ t, exec .resetAll s = .next t ∧ (∀ i, t.axis i = { s.axis i with pos := 0#32 }) ∧
    t = { s with axes := t.axes }

/-- R145: POS_READ emits the signed position and writes no state; its word is event code 8 and the axis. -/
def Obligations.PosReadResult : Prop :=
  ∀ i : Axis, (∀ s : State, exec (.posRead i) s = .next { s with hist := s.hist ++ [.pos i (s.axis i).pos.toInt] }) ∧
    decode (0x8#4 ++ BitVec.ofNat 2 i.index ++ 0#26) = .ok (.posRead i)

/-- R161: the control law, with the integral of this step in the sum and the unclamped error kept; nothing else
changes. -/
def Obligations.PidStepResult : Prop :=
  ∀ (i : Axis) (sp meas : Int) (s : State), 0 ≤ s.cfg.integralLimit → 0 ≤ s.cfg.outputLimit →
    let a := s.axes.get i
    let e := sp - meas
    let integ := max (-s.cfg.integralLimit) (min s.cfg.integralLimit (a.integ + e))
    let raw := Int.tdiv (s.cfg.kp.get i * e + s.cfg.ki.get i * integ + s.cfg.kd.get i * (e - a.prevErr)) s.cfg.scale
    exec (.pidStep i sp meas) s = .next { s with
      axes := s.axes.set i { a with
        integ := integ
        out := max (-s.cfg.outputLimit) (min s.cfg.outputLimit raw)
        prevErr := e } }

/-- R181: RAMP_ADVANCE snaps to the goal when disabled or nearer than one step, else moves one step toward it; nothing
else changes. -/
def Obligations.RampAdvanceResult : Prop :=
  ∀ (i : Axis) (t : Int) (en : Bool) (s : State), 1 ≤ s.cfg.rampStep →
    let a := s.axes.get i
    let g := t * s.cfg.res
    exec (.rampAdvance i t en) s = .next { s with
      axes := s.axes.set i { a with
        ramp := if en = false ∨ |g - a.ramp| < s.cfg.rampStep then g
          else if a.ramp < g then a.ramp + s.cfg.rampStep else a.ramp - s.cfg.rampStep } }

/-- R202: DET_STEP shifts the byte into the window; on 0x21 0x40 0x21 it zeroes the four positions and clears the window.
Nothing else changes. -/
def Obligations.DetStepResult : Prop :=
  ∀ (b : Byte) (s : State),
    (s.win1 = 0x21#8 ∧ s.win2 = 0x40#8 ∧ b = 0x21#8 →
      ∃ t, exec (.detStep b) s = .next t ∧ (∀ i, t.axis i = { s.axis i with pos := 0#32 }) ∧
        t = { s with axes := t.axes, win0 := 0x00#8, win1 := 0x00#8, win2 := 0x00#8 }) ∧
    (¬ (s.win1 = 0x21#8 ∧ s.win2 = 0x40#8 ∧ b = 0x21#8) →
      exec (.detStep b) s = .next { s with win0 := s.win1, win1 := s.win2, win2 := b })

/-- R203: DEC_STEP in each decoder state, code 3 as AWAIT_HEADER (R41). In RECEIVING_PAYLOAD it stores to the one byte of
`pl` at offset `pl_cnt`, and every other byte reads as before. Nothing else changes. -/
def Obligations.DecStepResult : Prop :=
  ∀ (b : Byte) (s : State),
    (s.decState = 1#2 → s.plCnt.toNat < 9 →
      ∃ m, exec (.decStep b) s = .next { s with
          pl := m
          plCnt := BitVec.ofNat 4 (s.plCnt.toNat + 1)
          decState := if s.plCnt.toNat + 1 = 9 then 2#2 else 1#2 } ∧
        Memory.read m s.plCnt.toNat = b ∧ ∀ a, a ≠ s.plCnt.toNat → Memory.read m a = Memory.read s.pl a) ∧
    (s.decState = 2#2 → exec (.decStep b) s = .next { s with
      commitIdx := if b = 0x21#8 then 0#4 else s.commitIdx
      decState := 0#2
      plCnt := 0#4 }) ∧
    (s.decState = 0#2 ∨ s.decState = 3#2 →
      exec (.decStep b) s = .next (if b = 0x23#8 then { s with decState := 1#2, plCnt := 0#4 } else s))

/-- R200: RX_BYTE, when no commit is in progress and the payload offset lies in `pl`, completes and is DET_STEP followed by
DEC_STEP; the two orders give the same state. -/
def Obligations.RxByteResult : Prop :=
  ∀ (b : Byte) (s : State), s.commitIdx = 0xF#4 → (s.decState = 1#2 → s.plCnt.toNat < 9) →
    ∃ t, exec (.rxByte b) s = .next t ∧ runInstrs [.detStep b, .decStep b] s = .next t ∧
      runInstrs [.decStep b, .detStep b] s = .next t

/-- R206: COMMIT_STEP with field index k = 0 … 8 writes field k from byte k of `pl` and advances the index; nothing else
changes. -/
def Obligations.CommitStepResult : Prop :=
  ∀ s : State, s.commitIdx.toNat ≤ 8 →
    ∃ t, exec .commitStep s = .next t ∧
      (∀ i, t.axis i = { s.axis i with
        target := if s.commitIdx.toNat = i.index then Memory.read s.pl s.commitIdx.toNat else (s.axis i).target
        bias := if s.commitIdx.toNat = 5 + i.index then Memory.read s.pl s.commitIdx.toNat else (s.axis i).bias }) ∧
      t = { s with
        axes := t.axes
        rampEn := if s.commitIdx.toNat = 4 then (Memory.read s.pl 4).getLsbD 0 else s.rampEn
        commitIdx := if s.commitIdx.toNat = 8 then 0xF#4 else BitVec.ofNat 4 (s.commitIdx.toNat + 1) }

/-- R242, R105: TLM_ASSEMBLE writes the header, the four targets, positions and speeds little-endian, and the tail; every
offset outside the 42 bytes reads as before, and nothing else changes. -/
def Obligations.TlmAssembleResult : Prop :=
  ∀ s : State, ∃ m, exec .tlmAssemble s = .next { s with txbuf := m } ∧
    Memory.read m 0 = 0x23#8 ∧ Memory.read m 41 = 0x21#8 ∧
    (∀ i : Axis, (memRead m (1 + 2 * i.index) 2 : Int) = (s.axis i).target.toInt % 2 ^ 16 ∧
      memRead m (9 + 4 * i.index) 4 = (s.axis i).pos.toNat ∧
      (memRead m (25 + 4 * i.index) 4 : Int) = (s.axis i).lastDelta % 2 ^ 32) ∧
    ∀ a, 42 ≤ a → Memory.read m a = Memory.read s.txbuf a

/-- R241: TEL_TICK with busy = 1 writes nothing; with busy = 0 it is TLM_ASSEMBLE and, on acceptance, sets busy and emits
the 42 bytes of `txbuf`. Its word is event code 3 with `acc` in bit 0. -/
def Obligations.TelTickResult : Prop :=
  ∀ (acc : Bool) (s : State),
    decode (0x3#4 ++ 0#27 ++ BitVec.ofBool acc) = .ok (.telTick acc) ∧
    (s.busy = true → exec (.telTick acc) s = .next s) ∧
    (s.busy = false → ∃ u, exec .tlmAssemble s = .next u ∧ exec (.telTick acc) s = .next
      (if acc = true then
        { u with busy := true, hist := s.hist ++ [.tx ((List.range 42).map (Memory.read u.txbuf))] }
      else u))

/-- R244: TX_DONE clears busy in every state and changes nothing else; its word. -/
def Obligations.TxDoneResult : Prop :=
  decode 0x60000000#32 = .ok .txDone ∧ ∀ s : State, exec .txDone s = .next { s with busy := false }

/-- R245: TX_ERR clears busy in every state and changes nothing else: the frame is not sent again; its word. -/
def Obligations.TxErrResult : Prop :=
  decode 0x70000000#32 = .ok .txErr ∧ ∀ s : State, exec .txErr s = .next { s with busy := false }

/-- R271, with R142, R181, R161, R272: what one control tick does to every axis, in a legal configuration, and the events
it emits, in the order of log 17; nothing else changes. -/
def Obligations.CtrlTickResult : Prop :=
  ∀ s : State, configLegal s.cfg = true →
    ∃ t, exec .ctrlTick s = .next t ∧
      (∀ i, let a := s.axis i
        let d := Int.bmod (s.cnt.get i) (2 ^ s.cfg.cntW)
        let g := a.target.toInt * s.cfg.res
        let ramp := if s.rampEn = false ∨ |g - a.ramp| < s.cfg.rampStep then g
          else if a.ramp < g then a.ramp + s.cfg.rampStep else a.ramp - s.cfg.rampStep
        let e := Int.tdiv ramp s.cfg.res + a.bias.toInt - d
        let integ := max (-s.cfg.integralLimit) (min s.cfg.integralLimit (a.integ + e))
        let raw := Int.tdiv (s.cfg.kp.get i * e + s.cfg.ki.get i * integ + s.cfg.kd.get i * (e - a.prevErr)) s.cfg.scale
        t.axis i = { a with
          pos := BitVec.ofInt 32 (a.pos.toInt + Int.tdiv d s.cfg.posDiv)
          lastDelta := d
          ramp := ramp
          integ := integ
          out := max (-s.cfg.outputLimit) (min s.cfg.outputLimit raw)
          prevErr := e }) ∧
      t = { s with
        cnt := ⟨0, 0, 0, 0⟩
        axes := t.axes
        hist := s.hist ++ [.cntClr .A, .cntClr .B, .cntClr .C, .cntClr .D,
          .act (t.axis .A).out (t.axis .B).out (t.axis .C).out (t.axis .D).out] }

/-- R272: ACTUATE emits the four outputs and changes nothing else. -/
def Obligations.ActuateResult : Prop :=
  ∀ s : State, exec .actuate s = .next { s with
    hist := s.hist ++ [.act (s.axis .A).out (s.axis .B).out (s.axis .C).out (s.axis .D).out] }

/-- R275, R55: from any state INIT gives every element its reset value, clears the counters with CNT_CLR and keeps the
output history before them; its word. -/
def Obligations.InitResult : Prop :=
  decode 0x10000000#32 = .ok .init ∧ ∀ s : State, ∃ t, exec .init s = .next t ∧
    (∀ i, t.axis i = ⟨0#32, 0, 0, 0, 0, 0, 0#8, 0#8⟩ ∧ t.cnt.get i = 0) ∧
    t.rampEn = false ∧ t.decState = 0#2 ∧ t.plCnt = 0#4 ∧ (∀ a, Memory.read t.pl a = 0x00#8) ∧ t.commitIdx = 0xF#4 ∧
    t.win0 = 0x00#8 ∧ t.win1 = 0x00#8 ∧ t.win2 = 0x00#8 ∧ t.busy = false ∧ (∀ a, Memory.read t.txbuf a = 0x00#8) ∧
    t.cfg = s.cfg ∧ t.input = s.input ∧ t.hist = s.hist ++ [.cntClr .A, .cntClr .B, .cntClr .C, .cntClr .D]

/-- R55: the values the state right after reset holds (its empty history, its configuration and its empty input are the
model's choices, logs 1, 2 and 4, and are not stated). -/
def Obligations.ResetValues : Prop :=
  (∀ i, State.reset.axis i = ⟨0#32, 0, 0, 0, 0, 0, 0#8, 0#8⟩ ∧ State.reset.cnt.get i = 0) ∧
    State.reset.rampEn = false ∧ State.reset.decState = 0#2 ∧ State.reset.plCnt = 0#4 ∧
    (∀ a, Memory.read State.reset.pl a = 0x00#8) ∧ State.reset.commitIdx = 0xF#4 ∧ State.reset.win0 = 0x00#8 ∧
    State.reset.win1 = 0x00#8 ∧ State.reset.win2 = 0x00#8 ∧ State.reset.busy = false ∧
    ∀ a, Memory.read State.reset.txbuf a = 0x00#8

/-- R114: RX_BYTE while a commit is in progress and COMMIT_STEP with none have no step; in a state with legal control codes
they are the only operations that have none, and nothing is refused. R16 calls an operation without a step stuck; that it is a
fault with a name and no refusal is log 5, and that `exec` runs under an illegal configuration too is log 9. -/
def Obligations.StuckEvents : Prop :=
  ∀ (i : Instr) (s : State),
    ((∀ b, i = .rxByte b → s.commitIdx ≠ 0xF#4 → exec i s = .fault .rxNotReady) ∧
      (i = .commitStep → s.commitIdx = 0xF#4 → exec i s = .fault .noCommitPending)) ∧
    (DecoderInv s → ((∃ f, exec i s = .fault f) ↔
      (∃ b, i = .rxByte b) ∧ s.commitIdx ≠ 0xF#4 ∨ i = .commitStep ∧ s.commitIdx = 0xF#4)) ∧
    ∀ r, exec i s ≠ .refused r

/-- The model's own choices for control codes no run reaches: RECEIVING_PAYLOAD with no byte of `pl` left stops (log 6), and
the unused `commit_idx` codes 9 … 14 only advance (log 7). -/
def Obligations.UnreachedControlCodes : Prop :=
  (∀ (b : Byte) (s : State), s.decState = 1#2 → 9 ≤ s.plCnt.toNat → exec (.decStep b) s = .fault .outsidePayload) ∧
    ∀ s : State, 9 ≤ s.commitIdx.toNat → s.commitIdx.toNat ≤ 14 →
      exec .commitStep s = .next { s with commitIdx := BitVec.ofNat 4 (s.commitIdx.toNat + 1) }

/-! ### The invariant -/

/-- R31 to R37, R41 to R44, R70, R10: every step keeps the invariant. -/
def Obligations.StepKeepsInvariant : Prop :=
  ∀ s t : State, Inv s → step s = .next t → Inv t

/-- The state right after reset meets the invariant (its configuration is the model's choice, log 1). -/
def Obligations.ResetMeetsInvariant : Prop := Inv State.reset

/-- R341: INIT establishes the invariant from any state of a legal configuration, whatever the elements held before; only
the history, which INIT keeps, must be one the block can have emitted. -/
def Obligations.InitEstablishesInvariant : Prop :=
  ∀ s : State, configLegal s.cfg = true → (∀ e ∈ s.hist, e.Ok s.cfg) → ∃ t, exec .init s = .next t ∧ Inv t

/-! ### The tracker -/

/-- R143: after counter movements of net amount t since the last clear, SAMPLE's delta is t exactly when t lies in the
signed CNT_W-bit range, and otherwise differs from t by a multiple of 2^CNT_W. -/
def Obligations.SampleAliasRange : Prop :=
  ∀ (i : Axis) (moves : List Int) (s : State), configLegal s.cfg = true → s.cnt.get i = 0 →
    ∃ t, runInstrs (moves.map (.encAdd i) ++ [.sample i]) s = .next t ∧
      (t.axis i).lastDelta = Int.bmod moves.sum (2 ^ s.cfg.cntW) ∧
      ((t.axis i).lastDelta = moves.sum ↔
        -(2 ^ (s.cfg.cntW - 1)) ≤ moves.sum ∧ moves.sum ≤ 2 ^ (s.cfg.cntW - 1) - 1) ∧
      (2 ^ s.cfg.cntW : Int) ∣ (t.axis i).lastDelta - moves.sum

/-- R146: the position is the wrapped sum of the per-sample quotients. -/
def Obligations.PositionSumsQuotients : Prop :=
  ∀ (i : Axis) (moves : List Int) (s : State), configLegal s.cfg = true → s.cnt.get i = 0 → (s.axis i).pos = 0#32 →
    ∃ t, runInstrs (moves.flatMap fun k => [.encAdd i k, .sample i]) s = .next t ∧
      (t.axis i).pos = BitVec.ofInt 32
        (moves.map fun k => Int.tdiv (Int.bmod k (2 ^ s.cfg.cntW)) s.cfg.posDiv).sum

/-- R84: a reset trigger and a control tick close together: the reset first leaves each position at this tick's quotient,
the tick first leaves it at 0. -/
def Obligations.ResetAgainstTick : Prop :=
  ∀ s : State, configLegal s.cfg = true → s.commitIdx = 0xF#4 → (s.decState = 1#2 → s.plCnt.toNat < 9) →
    s.win1 = 0x21#8 → s.win2 = 0x40#8 →
    (∃ t, runInstrs [.rxByte 0x21#8, .ctrlTick] s = .next t ∧
      ∀ i, (t.axis i).pos = BitVec.ofInt 32 (Int.tdiv (Int.bmod (s.cnt.get i) (2 ^ s.cfg.cntW)) s.cfg.posDiv)) ∧
    ∃ t, runInstrs [.ctrlTick, .rxByte 0x21#8] s = .next t ∧ ∀ i, (t.axis i).pos = 0#32

/-! ### The PID engine -/

/-- R163: the integral and the output stay within their limits whatever the inputs, and the output is a function of the
integral, the previous error, the inputs and the parameters. -/
def Obligations.PidBounds : Prop :=
  ∀ (i : Axis) (sp meas : Int) (s : State), configLegal s.cfg = true →
    ∃ t, exec (.pidStep i sp meas) s = .next t ∧
      (-s.cfg.integralLimit ≤ (t.axis i).integ ∧ (t.axis i).integ ≤ s.cfg.integralLimit) ∧
      (-s.cfg.outputLimit ≤ (t.axis i).out ∧ (t.axis i).out ≤ s.cfg.outputLimit) ∧
      ∀ s' : State, s'.cfg = s.cfg → (s'.axis i).integ = (s.axis i).integ → (s'.axis i).prevErr = (s.axis i).prevErr →
        ∃ t', exec (.pidStep i sp meas) s' = .next t' ∧ (t'.axis i).out = (t.axis i).out

/-- R164: with zero error from a zero PID state the output stays exactly 0. -/
def Obligations.PidZeroError : Prop :=
  ∀ (i : Axis) (values : List Int) (s : State), configLegal s.cfg = true → (s.axis i).integ = 0 →
    (s.axis i).prevErr = 0 →
    ∃ t, runInstrs (values.map fun v => .pidStep i v v) s = .next t ∧ (t.axis i).integ = 0 ∧ (t.axis i).prevErr = 0 ∧
      (values ≠ [] → (t.axis i).out = 0)

/-- R165: with the same error e > 0 at each of n steps from integral 0, the integral is min(n·e, INTEGRAL_LIMIT): it reaches
the limit exactly at step ⌈INTEGRAL_LIMIT / e⌉ and stays there. The same with the signs reversed. -/
def Obligations.PidConstantError : Prop :=
  ∀ (i : Axis) (e : Int) (inputs : List (Int × Int)) (s : State), configLegal s.cfg = true → (s.axis i).integ = 0 →
    (∀ p ∈ inputs, p.1 - p.2 = e) →
    ∃ t, runInstrs (inputs.map fun p => .pidStep i p.1 p.2) s = .next t ∧
      (0 < e → (t.axis i).integ = min (inputs.length * e) s.cfg.integralLimit ∧
        ((t.axis i).integ = s.cfg.integralLimit ↔ (s.cfg.integralLimit + e - 1) / e ≤ inputs.length)) ∧
      (e < 0 → (t.axis i).integ = max (inputs.length * e) (-s.cfg.integralLimit) ∧
        ((t.axis i).integ = -s.cfg.integralLimit ↔ (s.cfg.integralLimit - e - 1) / -e ≤ inputs.length))

/-- R301 (SC3, SC4): a PID_STEP that meets no saturation condition computes the unclamped law. -/
def Obligations.UnsaturatedPid : Prop :=
  ∀ (i : Axis) (sp meas : Int) (s : State), configLegal s.cfg = true → silentConditions (.pidStep i sp meas) s = [] →
    ∃ t, exec (.pidStep i sp meas) s = .next t ∧ (t.axis i).integ = (s.axis i).integ + (sp - meas) ∧
      (t.axis i).out = Int.tdiv (s.cfg.kp.get i * (sp - meas) + s.cfg.ki.get i * ((s.axis i).integ + (sp - meas)) +
        s.cfg.kd.get i * (sp - meas - (s.axis i).prevErr)) s.cfg.scale

/-! ### The ramp -/

/-- R183: with the ramp enabled and a constant goal, each call moves the ramp by at most RAMP_STEP toward the goal and never
past it; n calls reach the goal exactly when n ≥ ⌈distance / RAMP_STEP⌉. -/
def Obligations.RampReachesGoal : Prop :=
  ∀ (i : Axis) (t : Int) (n : Nat) (s : State), configLegal s.cfg = true →
    let g := t * s.cfg.res
    let r := (s.axis i).ramp
    ∃ u v, runInstrs (List.replicate n (.rampAdvance i t true)) s = .next u ∧ exec (.rampAdvance i t true) u = .next v ∧
      (u.axis i).ramp = (if r ≤ g then min g (r + n * s.cfg.rampStep) else max g (r - n * s.cfg.rampStep)) ∧
      ((u.axis i).ramp = g ↔ (|g - r| + s.cfg.rampStep - 1) / s.cfg.rampStep ≤ n) ∧
      |(v.axis i).ramp - (u.axis i).ramp| ≤ s.cfg.rampStep ∧
      (r ≤ g → (u.axis i).ramp ≤ (v.axis i).ramp ∧ (v.axis i).ramp ≤ g) ∧
      (g ≤ r → (v.axis i).ramp ≤ (u.axis i).ramp ∧ g ≤ (v.axis i).ramp)

/-- R184: while the ramp moves toward a constant goal its native results are monotone and the last one is the target; under
REF a step from 0 to 100 gives 27, 55, 82, 100, and with the ramp disabled 100 at once. -/
def Obligations.NativeSetpointMonotone : Prop :=
  ∀ (i : Axis) (s : State), configLegal s.cfg = true →
    (∀ (t : Int) (n m : Nat), n ≤ m →
      ∃ u v, runInstrs (List.replicate n (.rampAdvance i t true)) s = .next u ∧
        runInstrs (List.replicate m (.rampAdvance i t true)) s = .next v ∧
        ((s.axis i).ramp ≤ t * s.cfg.res →
          Int.tdiv (u.axis i).ramp s.cfg.res ≤ Int.tdiv (v.axis i).ramp s.cfg.res) ∧
        (t * s.cfg.res ≤ (s.axis i).ramp →
          Int.tdiv (v.axis i).ramp s.cfg.res ≤ Int.tdiv (u.axis i).ramp s.cfg.res) ∧
        ((v.axis i).ramp = t * s.cfg.res → Int.tdiv (v.axis i).ramp s.cfg.res = t)) ∧
    (∀ t : Int, ∃ u, exec (.rampAdvance i t false) s = .next u ∧ Int.tdiv (u.axis i).ramp s.cfg.res = t) ∧
    (s.cfg = Config.ref → (s.axis i).ramp = 0 → ∀ p ∈ [(1, 27), (2, 55), (3, 82), (4, 100)],
      ∃ u, runInstrs (List.replicate p.1 (.rampAdvance i 100 true)) s = .next u ∧
        Int.tdiv (u.axis i).ramp s.cfg.res = p.2)

/-! ### The command decoder and the detector -/

/-- R207: a valid 11-byte frame starts exactly one commit (each of its bytes finds the block ready, and only the tail leaves
it committing), which after nine COMMIT_STEPs has written every field from the payload; no other operation but INIT writes
those fields (INIT by R275: log 14). -/
def Obligations.FrameCommitsOnce : Prop :=
  (∀ (p : List Byte) (s : State), p.length = 9 → s.decState = 0#2 → s.commitIdx = 0xF#4 →
    ∃ u t, runInstrs ((0x23#8 :: p ++ [0x21#8]).map .rxByte) s = .next u ∧
      u.commitIdx = 0#4 ∧ u.decState = 0#2 ∧ u.rampEn = s.rampEn ∧
      (∀ i, (u.axis i).target = (s.axis i).target ∧ (u.axis i).bias = (s.axis i).bias) ∧
      runInstrs (List.replicate 9 .commitStep) u = .next t ∧ t.commitIdx = 0xF#4 ∧
      (∀ i, p[i.index]? = some (t.axis i).target ∧ p[5 + i.index]? = some (t.axis i).bias) ∧
      p[4]?.map (fun f => f.getLsbD 0) = some t.rampEn) ∧
  ∀ (i : Instr) (s t : State), exec i s = .next t → i ≠ .commitStep → i ≠ .init →
    t.rampEn = s.rampEn ∧ ∀ x, (t.axis x).target = (s.axis x).target ∧ (t.axis x).bias = (s.axis x).bias

/-- R118, R102: the pseudo-instruction `cmd` leaves the decimals it names as targets and biases, and bit 0 of its flag byte
as the ramp-enable. -/
def Obligations.CmdPseudoInstruction : Prop :=
  ∀ (targets biases : PerAxis Int) (f : Byte) (s : State),
    (∀ i, InSigned 8 (targets.get i) ∧ InSigned 8 (biases.get i)) → s.decState = 0#2 → s.commitIdx = 0xF#4 →
    ∃ t, runInstrs (traceCmd targets f biases) s = .next t ∧ t.commitIdx = 0xF#4 ∧ t.rampEn = f.getLsbD 0 ∧
      ∀ i, (t.axis i).target.toInt = targets.get i ∧ (t.axis i).bias.toInt = biases.get i

/-- R82: after k COMMIT_STEPs the fields 0 … k−1 are new and the fields k … 8 old. -/
def Obligations.TornCommit : Prop :=
  ∀ (s : State) (k : Nat), s.commitIdx = 0#4 → k ≤ 9 →
    ∃ t, runInstrs (List.replicate k .commitStep) s = .next t ∧
      t.commitIdx = (if k = 9 then 0xF#4 else BitVec.ofNat 4 k) ∧
      t.rampEn = (if 4 < k then (Memory.read s.pl 4).getLsbD 0 else s.rampEn) ∧
      ∀ i, t.axis i = { s.axis i with
        target := if i.index < k then Memory.read s.pl i.index else (s.axis i).target
        bias := if 5 + i.index < k then Memory.read s.pl (5 + i.index) else (s.axis i).bias }

/-- R201: the hold of the byte input lasts at most nine COMMIT_STEPs: exactly 9 − k of them from field index k, each of
which completes. -/
def Obligations.ReadyWithinNineCommits : Prop :=
  ∀ s : State, s.commitIdx.toNat ≤ 8 →
    (∃ t, runInstrs (List.replicate (9 - s.commitIdx.toNat) .commitStep) s = .next t ∧ t.rxReady = true) ∧
    ∀ n, n < 9 - s.commitIdx.toNat →
      ∃ t, runInstrs (List.replicate n .commitStep) s = .next t ∧ t.rxReady = false

/-- R208: the decoder and the command state end the same with the detector (RX_BYTE) and without it (DEC_STEP), from states
that agree on them; the window ends the same in every decoder state; and three received bytes 0x21 0x40 0x21, with anything
but bytes and INIT between them, zero the positions in the step of the third, unless a match at the first one cleared the
window. -/
def Obligations.DetectorIndependence : Prop :=
  (∀ (events : List (Option Byte)) (s s' t : State), s'.decoderView = s.decoderView →
    runInstrs (events.map fun e => e.elim .commitStep .rxByte) s = .next t →
    ∃ t', runInstrs (events.map fun e => e.elim .commitStep .decStep) s' = .next t' ∧ t'.decoderView = t.decoderView) ∧
  (∀ (bytes : List Byte) (s s' t t' : State), s'.win0 = s.win0 → s'.win1 = s.win1 → s'.win2 = s.win2 →
    runInstrs (bytes.map .rxByte) s = .next t → runInstrs (bytes.map .rxByte) s' = .next t' →
    t'.win0 = t.win0 ∧ t'.win1 = t.win1 ∧ t'.win2 = t.win2) ∧
  ∀ (mid1 mid2 : List Instr) (s t : State),
    (∀ i ∈ mid1 ++ mid2, i ≠ .init ∧ ∀ b, i ≠ .rxByte b ∧ i ≠ .detStep b) → ¬ (s.win1 = 0x21#8 ∧ s.win2 = 0x40#8) →
    runInstrs ([.rxByte 0x21#8] ++ mid1 ++ [.rxByte 0x40#8] ++ mid2 ++ [.rxByte 0x21#8]) s = .next t →
    ∀ i, (t.axis i).pos = 0#32

/-- R348: bytes that, after the last two received, hold no reset trigger leave every position as it was. -/
def Obligations.NoTriggerNoReset : Prop :=
  ∀ (bytes : List Byte) (s t : State), ¬ HoldsTrigger (s.win1 :: s.win2 :: bytes) →
    runInstrs (bytes.map .rxByte) s = .next t → ∀ i, (t.axis i).pos = (s.axis i).pos

/-- R205: a frame whose byte p is 0x23 and whose byte p − 1 is not 0x21, repeated for ever after the decoder has taken byte p
as a header, never commits. -/
def Obligations.MisalignedHeaderLockout : Prop :=
  ∀ (f : List Byte) (p n : Nat) (s : State), f.length = 11 → f[0]? = some 0x23#8 → f[10]? = some 0x21#8 →
    1 ≤ p → p ≤ 9 → f[p]? = some 0x23#8 → f[p - 1]? ≠ some 0x21#8 → s.decState = 0#2 → s.commitIdx = 0xF#4 →
    ∃ t, runInstrs ((f.drop p ++ (List.replicate n f).flatten).map .rxByte) s = .next t ∧ t.commitIdx = 0xF#4 ∧
      t.rampEn = s.rampEn ∧ ∀ i, (t.axis i).target = (s.axis i).target ∧ (t.axis i).bias = (s.axis i).bias

/-! ### The transmitter -/

/-- R106: the telemetry round trip is exact. -/
def Obligations.TelemetryRoundTrip : Prop :=
  ∀ (acc : Bool) (s : State), configLegal s.cfg = true → (∀ i, InSigned s.cfg.cntW (s.axis i).lastDelta) →
    s.busy = false →
    ∃ t, exec (.telTick acc) s = .next t ∧ ∀ i : Axis,
      (BitVec.ofNat 16 (memRead t.txbuf (1 + 2 * i.index) 2)).toInt = (s.axis i).target.toInt ∧
      (BitVec.ofNat 32 (memRead t.txbuf (9 + 4 * i.index) 4)).toInt = (s.axis i).pos.toInt ∧
      (BitVec.ofNat 32 (memRead t.txbuf (25 + 4 * i.index) 4)).toInt = (s.axis i).lastDelta

/-- R246: while nothing clears busy, TEL_TICKs make at most one TX event (none when busy = 1 at the start), and exactly one
when the first of them finds busy = 0 and is accepted. -/
def Obligations.AtMostOneTransfer : Prop :=
  ∀ (events : List Instr) (s t : State), (∀ i ∈ events, clearsBusy i = false) → runInstrs events s = .next t →
    ∃ new, t.hist = s.hist ++ new ∧ (txEvents new).length ≤ (if s.busy = true then 0 else 1) ∧
      (events.head? = some (.telTick true) → s.busy = false → (txEvents new).length = 1)

/-- R46: busy is set only by an accepted TEL_TICK and cleared only by TX_DONE, TX_ERR and INIT. -/
def Obligations.BusyTransitions : Prop :=
  ∀ (i : Instr) (s t : State), exec i s = .next t →
    (s.busy = false → t.busy = true → i = .telTick true) ∧
    (s.busy = true → t.busy = false → i = .txDone ∨ i = .txErr ∨ i = .init)

/-- R83 (and R275, for INIT): while a transfer is in flight no event but INIT writes `txbuf`. -/
def Obligations.TxbufKeptWhileBusy : Prop :=
  ∀ (i : Instr) (s t : State), exec i s = .next t → i.isEvent = true → i ≠ .init → s.busy = true →
    ∀ a, Memory.read t.txbuf a = Memory.read s.txbuf a

/-! ### Whole-machine rules -/

/-- R17, R48, R271, R275: what each event appends to the output history, and that nothing is removed. That CNT_CLR stands for
A, B, C, D in that order and before ACT is log 17. -/
def Obligations.HistoryOfEachEvent : Prop :=
  ∀ (i : Instr) (s t : State), i.isEvent = true → exec i s = .next t →
    ∃ new, t.hist = s.hist ++ new ∧
      (i = .init → new = [.cntClr .A, .cntClr .B, .cntClr .C, .cntClr .D]) ∧
      (i = .ctrlTick → new = [.cntClr .A, .cntClr .B, .cntClr .C, .cntClr .D,
        .act (t.axis .A).out (t.axis .B).out (t.axis .C).out (t.axis .D).out]) ∧
      (∀ acc, i = .telTick acc → new = if acc = true ∧ s.busy = false
        then [.tx ((List.range 42).map (Memory.read t.txbuf))] else []) ∧
      (∀ x, i = .posRead x → new = [.pos x (s.axis x).pos.toInt]) ∧
      ((∃ b, i = .rxByte b) ∨ i = .commitStep ∨ i = .txDone ∨ i = .txErr ∨ (∃ x k, i = .encAdd x k) → new = [])

/-- R54, R31 to R37: which operations write the elements of the per-axis bank and the counters. -/
def Obligations.AxisStateWriters : Prop :=
  ∀ (i : Instr) (s t : State) (x : Axis), exec i s = .next t → i ≠ .init → i ≠ .ctrlTick →
    ((∀ y, i ≠ .sample y) → (t.axis x).lastDelta = (s.axis x).lastDelta) ∧
    ((∀ y, i ≠ .sample y) → i ≠ .resetAll → (∀ b, i ≠ .rxByte b ∧ i ≠ .detStep b) → (t.axis x).pos = (s.axis x).pos) ∧
    ((∀ y sp meas, i ≠ .pidStep y sp meas) → (t.axis x).integ = (s.axis x).integ ∧
      (t.axis x).prevErr = (s.axis x).prevErr ∧ (t.axis x).out = (s.axis x).out) ∧
    ((∀ y g en, i ≠ .rampAdvance y g en) → (t.axis x).ramp = (s.axis x).ramp) ∧
    ((∀ y, i ≠ .sample y) → (∀ y k, i ≠ .encAdd y k) → t.cnt.get x = s.cnt.get x)

/-- R41 to R45, R52: which operations write the decoder elements, the payload buffer, the commit index and the window. -/
def Obligations.DecoderWriters : Prop :=
  ∀ (i : Instr) (s t : State), exec i s = .next t → i ≠ .init → (∀ b, i ≠ .rxByte b) →
    ((∀ b, i ≠ .decStep b) → t.decState = s.decState ∧ t.plCnt = s.plCnt ∧
      ∀ a, Memory.read t.pl a = Memory.read s.pl a) ∧
    ((∀ b, i ≠ .decStep b) → i ≠ .commitStep → t.commitIdx = s.commitIdx) ∧
    ((∀ b, i ≠ .detStep b) → t.win0 = s.win0 ∧ t.win1 = s.win1 ∧ t.win2 = s.win2)

/-- R7, R110: no operation changes the configuration or the events still waiting. -/
def Obligations.ConfigAndInputKept : Prop :=
  ∀ (i : Instr) (s t : State), exec i s = .next t → t.cfg = s.cfg ∧ t.input = s.input

/-- R274: within a control tick no axis reads any element another axis writes: an axis's record after the tick depends on its
own record, its own counter, the ramp-enable and the parameters only. -/
def Obligations.AxesDoNotInterfere : Prop :=
  ∀ (i : Axis) (s s' : State), s'.cfg = s.cfg → s'.rampEn = s.rampEn → s'.axis i = s.axis i →
    s'.cnt.get i = s.cnt.get i →
    ∃ t t', exec .ctrlTick s = .next t ∧ exec .ctrlTick s' = .next t' ∧ t'.axis i = t.axis i ∧
      t'.cnt.get i = t.cnt.get i

/-- R274: the tick's writes are the same in any order of the axes; only the order of the CNT_CLR events follows it. -/
def Obligations.TickOrderIrrelevant : Prop :=
  ∀ (order : List Axis) (s : State), order.Perm Axis.inOrder →
    { order.foldl (tickAxis s.rampEn) s with hist := [] } = { Axis.inOrder.foldl (tickAxis s.rampEn) s with hist := [] }
end

