-- ==== Sys2Proof/Laws/Decode.lean ====
section
/-! SUPPORT. The fields of an event word, and what the decoder's two operand tests do. -/

namespace Sys2Proof

@[simp] theorem evField_eventWord (ev : BitVec 4) (ax : BitVec 2) (data : BitVec 16) :
    evField (eventWord ev ax data) = ev := by
  ext k hk
  simp only [evField, eventWord, BitVec.getElem_extractLsb', BitVec.getLsbD_append]
  rw [if_neg (by omega), if_neg (by omega), if_neg (by omega), BitVec.getLsbD_eq_getElem (by omega)]
  congr 1
  omega

@[simp] theorem axField_eventWord (ev : BitVec 4) (ax : BitVec 2) (data : BitVec 16) :
    axField (eventWord ev ax data) = ax := by
  ext k hk
  simp only [axField, eventWord, BitVec.getElem_extractLsb', BitVec.getLsbD_append]
  rw [if_neg (by omega), if_neg (by omega), if_pos (by omega), BitVec.getLsbD_eq_getElem (by omega)]
  congr 1
  omega

@[simp] theorem rsvField_eventWord (ev : BitVec 4) (ax : BitVec 2) (data : BitVec 16) :
    rsvField (eventWord ev ax data) = 0#10 := by
  ext k hk
  simp only [rsvField, eventWord, BitVec.getElem_extractLsb', BitVec.getLsbD_append]
  rw [if_neg (by omega), if_pos (by omega)]
  simp

@[simp] theorem dataField_eventWord (ev : BitVec 4) (ax : BitVec 2) (data : BitVec 16) :
    dataField (eventWord ev ax data) = data := by
  ext k hk
  simp only [dataField, eventWord, BitVec.getElem_extractLsb', BitVec.getLsbD_append]
  rw [if_pos (by omega), BitVec.getLsbD_eq_getElem (by omega)]
  congr 1
  omega

/-- A word with `rsv` = 0 is the word of its three other fields (30_encoding.md R110). -/
theorem eventWord_fields {w : EventWord} (h : rsvField w = 0#10) :
    eventWord (evField w) (axField w) (dataField w) = w := by
  apply BitVec.eq_of_getLsbD_eq
  intro k hk
  have hr : ∀ j, j < 10 → w.getLsbD (16 + j) = false := fun j hj => by
    have := congrArg (fun v : BitVec 10 => v.getLsbD j) h
    simpa [rsvField, BitVec.getLsbD_extractLsb', hj] using this
  simp only [eventWord, evField, axField, dataField, BitVec.getLsbD_append, BitVec.getLsbD_extractLsb']
  by_cases h1 : k < 16
  · simp [h1]
  · by_cases h2 : k - 16 < 10
    · have := hr (k - 16) h2
      rw [show 16 + (k - 16) = k by omega] at this
      simp [h1, h2, this]
    · by_cases h3 : k - 16 - 10 < 2
      · simp [h1, h2, h3, show 26 + (k - 16 - 10) = k by omega]
      · simp [h1, h2, h3, show k - 16 - 10 - 2 < 4 by omega, show 28 + (k - 16 - 10 - 2) = k by omega]

@[simp] theorem axisOfField_fieldOfAxis (i : Axis) : axisOfField (fieldOfAxis i) = i := by cases i <;> rfl

@[simp] theorem fieldOfAxis_axisOfField (ax : BitVec 2) : fieldOfAxis (axisOfField ax) = ax := by
  revert ax
  decide

/-- The axis test, once. -/
theorem requireNoAxis_ok {w : EventWord} {i j : Instr} :
    requireNoAxis w i = .ok j ↔ axField w = 0#2 ∧ j = i := by
  unfold requireNoAxis
  split <;> simp_all [eq_comm]

/-- The data test, once. -/
theorem requireDataBelow_ok {n : Nat} {w : EventWord} {r : Except DecodeError Instr} {j : Instr} :
    requireDataBelow n w r = .ok j ↔ dataField w >>> n = 0#16 ∧ r = .ok j := by
  unfold requireDataBelow
  split <;> simp_all

/-- The decoder, once: a word decodes when its code and operands do and its `rsv` bits are 0. -/
theorem decode_ok {w : EventWord} {i : Instr} :
    decode w = .ok i ↔ decodeByCode w = .ok i ∧ rsvField w = 0#10 := by
  unfold decode
  split
  · simp_all
  · split <;> simp_all

end Sys2Proof
end

