-- ==== Sys2Proof/Laws/Memory.lean ====
section
/-! SUPPORT. The laws of the buffers: what is read after a write, that every write keeps the canonical form, and that
equal contents are equal data. -/

namespace Sys2Proof.Machine

open Sys2Proof

@[simp] theorem Memory.read_nil (a : Nat) : Memory.read [] a = 0x00#8 := rfl

theorem Memory.read_cons (c : Host.Cell) (m : Memory) (a : Nat) :
    Memory.read (c :: m) a = if c.1 = a then c.2 else Memory.read m a := rfl

/-- Dropping the cells of one offset changes what that offset reads as, and no other. -/
theorem Memory.read_filter_ne (m : Memory) (off a : Nat) :
    Memory.read (m.filter fun c => c.1 ≠ off) a = if a = off then 0x00#8 else Memory.read m a := by
  induction m with
  | nil => simp
  | cons c m ih =>
    simp only [List.filter_cons, Memory.read_cons]
    by_cases hc : c.1 = off
    · simp only [hc, ne_eq, not_true_eq_false, decide_false, Bool.false_eq_true, ↓reduceIte, ih]
      by_cases ha : a = off
      · simp [ha]
      · simp [ha, Ne.symm ha]
    · simp only [ne_eq, hc, not_false_eq_true, decide_true, ↓reduceIte, Memory.read_cons, ih]
      by_cases ha : a = off
      · simp [ha, hc]
      · simp [ha]

/-- Placing a cell whose offset the buffer does not list. -/
theorem Memory.read_place (m : Memory) (off : Nat) (b : Byte) (a : Nat) (h : ∀ c ∈ m, c.1 ≠ off) :
    Memory.read (Memory.place m off b) a = if a = off then b else Memory.read m a := by
  induction m with
  | nil => simp [Memory.place, Memory.read_cons, eq_comm]
  | cons c m ih =>
    have hc : c.1 ≠ off := h c (by simp)
    have ih' := ih fun d hd => h d (by simp [hd])
    unfold Memory.place
    split
    · simp [Memory.read_cons, eq_comm]
    · rw [Memory.read_cons, ih', Memory.read_cons]
      by_cases ha : a = off
      · simp [ha, hc]
      · simp [ha]

/-- Read after write: the byte written at its offset, and every other byte as before. -/
theorem Memory.read_write (m : Memory) (off : Nat) (b : Byte) (a : Nat) :
    Memory.read (Memory.write m off b) a = if a = off then b else Memory.read m a := by
  unfold Memory.write
  dsimp only
  split
  · rw [Memory.read_filter_ne, ‹b = 0x00#8›]
  · rw [Memory.read_place _ _ _ _ (by simp), Memory.read_filter_ne]
    split <;> rfl

theorem Memory.mem_place (m : Memory) (off : Nat) (b : Byte) (c : Host.Cell) :
    c ∈ Memory.place m off b ↔ c = (off, b) ∨ c ∈ m := by
  induction m with
  | nil => simp [Memory.place]
  | cons d m ih =>
    unfold Memory.place
    split
    · simp
    · simp [ih]
      tauto

theorem Memory.place_sorted (m : Memory) (off : Nat) (b : Byte) (hs : m.Pairwise (fun x y => x.1 < y.1))
    (h : ∀ c ∈ m, c.1 ≠ off) : (Memory.place m off b).Pairwise (fun x y => x.1 < y.1) := by
  induction m with
  | nil => simp [Memory.place]
  | cons c m ih =>
    rw [List.pairwise_cons] at hs
    have hc : c.1 ≠ off := h c (by simp)
    unfold Memory.place
    split
    · rename_i hlt
      refine List.pairwise_cons.2 ⟨fun d hd => ?_, List.pairwise_cons.2 hs⟩
      rcases List.mem_cons.1 hd with rfl | hd
      · exact hlt
      · exact lt_trans hlt (hs.1 d hd)
    · refine List.pairwise_cons.2 ⟨fun d hd => ?_, ih hs.2 fun d hd => h d (by simp [hd])⟩
      rcases (Memory.mem_place _ _ _ _).1 hd with rfl | hd
      · show c.1 < off
        omega
      · exact hs.1 d hd

/-- Every write inside the buffer keeps the canonical form. -/
theorem Memory.wf_write {size : Nat} {m : Memory} (hm : Memory.wf size m) {off : Nat} (ho : off < size) (b : Byte) :
    Memory.wf size (Memory.write m off b) := by
  obtain ⟨hs, hc⟩ := hm
  have hf : (m.filter fun c => c.1 ≠ off).Pairwise (fun x y => x.1 < y.1) := hs.filter _
  unfold Memory.write
  dsimp only
  split
  · exact ⟨hf, fun c h => hc c (List.mem_of_mem_filter h)⟩
  · refine ⟨Memory.place_sorted _ _ _ hf (by simp), fun c h => ?_⟩
    rcases (Memory.mem_place _ _ _ _).1 h with rfl | h
    · exact ⟨ho, ‹_›⟩
    · exact hc c (List.mem_of_mem_filter h)

theorem Memory.wf_nil (size : Nat) : Memory.wf size [] := ⟨List.Pairwise.nil, by simp⟩

/-- Every multi-byte write inside the buffer keeps the canonical form. -/
theorem memWrite_wf {size : Nat} (n : Nat) : ∀ {m : Memory}, Memory.wf size m → ∀ {off : Nat}, off + n ≤ size →
    ∀ v : Int, Memory.wf size (memWrite m off n v) := by
  induction n with
  | zero => exact fun h _ _ _ => h
  | succ n ih =>
    intro m h off ho v
    exact ih (Memory.wf_write h (by omega) _) (by omega) _

/-- Read after a multi-byte write (00_scope.md R15): byte `off + k` holds bits 8k+7 … 8k of the value; every other byte
is as before. -/
theorem read_memWrite (n : Nat) : ∀ (m : Memory) (off : Nat) (v : Int) (a : Nat),
    Memory.read (memWrite m off n v) a =
      if off ≤ a ∧ a < off + n then BitVec.ofInt 8 (v / 256 ^ (a - off)) else Memory.read m a := by
  induction n with
  | zero =>
    intro m off v a
    rw [memWrite, if_neg (by omega)]
  | succ n ih =>
    intro m off v a
    rw [memWrite, ih, Memory.read_write]
    by_cases h : off + 1 ≤ a ∧ a < off + 1 + n
    · rw [if_pos h, if_pos (by omega), show a - off = a - (off + 1) + 1 by omega, pow_succ', Int.ediv_ediv_of_nonneg (by norm_num)]
    · rw [if_neg h]
      by_cases ha : a = off
      · subst ha
        simp
      · rw [if_neg ha, if_neg (by omega)]

/-- One byte is read as it stands. -/
theorem memRead_one (m : Memory) (off : Nat) : memRead m off 1 = (Memory.read m off).toNat := by simp [memRead]

theorem memRead_lt (n : Nat) : ∀ (m : Memory) (off : Nat), memRead m off n < 256 ^ n := by
  induction n with
  | zero => simp [memRead]
  | succ n ih =>
    intro m off
    have h1 := (Memory.read m off).isLt
    have h2 := ih m (off + 1)
    rw [memRead, pow_succ]
    omega

/-- Reading back what was written gives the value modulo 2^(8n) (00_scope.md R15). -/
theorem memRead_memWrite (n : Nat) : ∀ (m : Memory) (off : Nat) (v : Int),
    (memRead (memWrite m off n v) off n : Int) = v % 256 ^ n := by
  suffices H : ∀ (n : Nat) (m : Memory) (off : Nat) (v : Int),
      (∀ k < n, Memory.read m (off + k) = BitVec.ofInt 8 (v / 256 ^ k)) → (memRead m off n : Int) = v % 256 ^ n by
    intro m off v
    refine H n _ _ _ fun k hk => ?_
    rw [read_memWrite, if_pos (by omega), Nat.add_sub_cancel_left]
  intro n
  induction n with
  | zero => intro m off v _; simp [memRead]
  | succ n ih =>
    intro m off v h
    have h0 := h 0 (by omega)
    have ht := ih m (off + 1) (v / 256) fun k hk => by
      have := h (k + 1) (by omega)
      rw [show off + 1 + k = off + (k + 1) by omega, this, pow_succ', Int.ediv_ediv_of_nonneg (by norm_num)]
    rw [memRead]
    push_cast
    rw [ht]
    simp only [Nat.add_zero, pow_zero, Int.ediv_one] at h0
    rw [h0, BitVec.toNat_ofInt]
    have hp : (256 : Int) ^ (n + 1) = 256 * 256 ^ n := pow_succ' 256 n
    have h8 : ((2 ^ 8 : Nat) : Int) = 256 := by norm_num
    have hv := Int.emod_add_mul_ediv v 256
    rw [h8, Int.toNat_of_nonneg (Int.emod_nonneg v (by norm_num)), hp, Int.emod_def v (256 * 256 ^ n),
      Int.emod_def (v / 256), Int.ediv_ediv_of_nonneg (by norm_num)]
    linear_combination hv

/-- Equal contents are equal data. -/
theorem Memory.ext_read {size : Nat} : ∀ {m n : Memory}, Memory.wf size m → Memory.wf size n →
    (∀ a, Memory.read m a = Memory.read n a) → m = n := by
  have low : ∀ {m : Memory} {a : Nat}, (∀ c ∈ m, a < c.1) → Memory.read m a = 0x00#8 := by
    intro m a h
    induction m with
    | nil => rfl
    | cons c m ih =>
      have := h c (by simp)
      rw [Memory.read_cons, if_neg (by omega), ih fun d hd => h d (by simp [hd])]
  intro m
  induction m with
  | nil =>
    intro n _ hn h
    cases n with
    | nil => rfl
    | cons d n =>
      have := h d.1
      rw [Memory.read_cons, if_pos rfl] at this
      exact absurd this.symm (hn.2 d (by simp)).2
  | cons c m ih =>
    intro n hm hn h
    obtain ⟨hms, hmc⟩ := hm
    rw [List.pairwise_cons] at hms
    cases n with
    | nil =>
      have := h c.1
      rw [Memory.read_cons, if_pos rfl] at this
      exact absurd this (hmc c (by simp)).2
    | cons d n =>
      obtain ⟨hns, hnc⟩ := hn
      rw [List.pairwise_cons] at hns
      have hcd : c.1 = d.1 := by
        by_contra hne
        rcases Nat.lt_or_gt_of_ne hne with hlt | hlt
        · have h1 := h c.1
          rw [Memory.read_cons, if_pos rfl, Memory.read_cons, if_neg (by omega),
            low fun e he => lt_trans hlt (hns.1 e he)] at h1
          exact (hmc c (by simp)).2 h1
        · have h1 := h d.1
          rw [Memory.read_cons, if_neg (by omega), low fun e he => lt_trans hlt (hms.1 e he), Memory.read_cons,
            if_pos rfl] at h1
          exact (hnc d (by simp)).2 h1.symm
      have hb : c.2 = d.2 := by
        have h1 := h c.1
        rwa [Memory.read_cons, if_pos rfl, Memory.read_cons, if_pos hcd.symm] at h1
      have htail : m = n := by
        refine ih ⟨hms.2, fun e he => hmc e (by simp [he])⟩ ⟨hns.2, fun e he => hnc e (by simp [he])⟩ fun a => ?_
        by_cases ha : c.1 = a
        · rw [low fun e he => ha ▸ hms.1 e he, low fun e he => ha ▸ hcd ▸ hns.1 e he]
        · have h1 := h a
          rwa [Memory.read_cons, if_neg ha, Memory.read_cons, if_neg (hcd ▸ ha)] at h1
      rw [htail, Prod.ext hcd hb]

@[simp] theorem bytesOf_length (m : Memory) (n : Nat) : (bytesOf m n).length = n := by simp [bytesOf]

theorem bytesOf_getElem (m : Memory) {n a : Nat} (h : a < n) : (bytesOf m n)[a]? = some (Memory.read m a) := by
  simp [bytesOf, h]

end Sys2Proof.Machine
end

