-- ==== Sys2Proof/Laws/Operands.lean ====
section
/-! SUPPORT. The arithmetic of 00_scope.md R12 and R13 in the terms of the library, and what a legal configuration
says. -/

namespace Sys2Proof.Machine

open Sys2Proof

/-- `tdiv` is the library's division truncated toward zero. -/
theorem tdiv_eq (a b : Int) : tdiv a b = Int.tdiv a b := by
  unfold tdiv
  rcases a with (_ | m) | m <;> rcases b with (_ | n) | n <;> simp [Int.tdiv, Int.sign, Int.natAbs]

/-- `sext_N` is the balanced remainder modulo 2^N. -/
theorem sext_eq_bmod {n : Nat} (hn : 1 ≤ n) (v : Int) : sext n v = Int.bmod v (2 ^ n) := by
  obtain ⟨m, rfl⟩ : ∃ m, n = m + 1 := ⟨n - 1, by omega⟩
  have hp : (2 : Int) ^ (m + 1) = 2 ^ m * 2 := pow_succ 2 m
  have h0 : (0 : Int) < 2 ^ m := by positivity
  rw [sext, zext, bitOf, Int.bmod_def]
  push_cast
  simp only [hp]
  generalize (2 : Int) ^ m = h at h0
  have hr := Int.emod_emod_of_dvd v (Dvd.intro 2 rfl : h ∣ h * 2)
  have hd : v / h % 2 = v % (h * 2) / h := by
    rw [Int.emod_def (v) (h * 2), Int.emod_def (v / h) 2, ← Int.ediv_ediv_of_nonneg h0.le]
    rw [show v - h * 2 * (v / h / 2) = v + (-(2 * (v / h / 2))) * h by ring, Int.add_mul_ediv_right _ _ h0.ne']
    ring
  have hlo := Int.emod_nonneg v (by omega : h * 2 ≠ 0)
  have hhi := Int.emod_lt_of_pos v (by omega : 0 < h * 2)
  rw [hd]
  generalize v % (h * 2) = r at hlo hhi
  split
  · rw [Int.ediv_eq_zero_of_lt hlo (by omega)]; ring
  · rw [show r / h = 1 from by
      rw [Int.ediv_eq_iff_of_pos h0]; constructor <;> omega]
    ring

/-- `wrap_N` is the balanced remainder modulo 2^N too. -/
theorem wrap_eq_bmod {n : Nat} (hn : 1 ≤ n) (v : Int) : wrap n v = Int.bmod v (2 ^ n) := by
  rw [wrap, sext_eq_bmod hn]
  have h : ((2 ^ n : Nat) : Int) = (2 : Int) ^ n := by push_cast; rfl
  rw [← h, Int.emod_bmod]

/-- The position register takes the low 32 bits. -/
theorem wrap32_eq (v : Int) : wrap32 v = BitVec.ofInt 32 v := by
  apply BitVec.eq_of_toInt_eq
  rw [wrap32, wrap_eq_bmod (by decide), BitVec.toInt_ofInt, BitVec.toInt_ofInt, Int.bmod_bmod]

/-- `sext_N` lands in the signed range of N bits. -/
theorem sext_inSigned {n : Nat} (hn : 1 ≤ n) (v : Int) : InSigned n (sext n v) := by
  rw [sext_eq_bmod hn]
  obtain ⟨m, rfl⟩ : ∃ m, n = m + 1 := ⟨n - 1, by omega⟩
  have hp : (2 : Nat) ^ (m + 1) = 2 ^ m * 2 := pow_succ 2 m
  have hq : ((2 ^ m : Nat) : Int) = (2 : Int) ^ m := by push_cast; rfl
  have hl := Int.le_bmod (x := v) (m := 2 ^ (m + 1)) (by positivity)
  have hu := Int.bmod_lt (x := v) (m := 2 ^ (m + 1)) (by positivity)
  rw [hp] at hl hu ⊢
  simp only [Nat.add_sub_cancel, InSigned, ← hq]
  push_cast at hl hu ⊢
  omega

/-- A value in the signed range of N bits is its own sign extension. -/
theorem sext_of_inSigned {n : Nat} (hn : 1 ≤ n) {v : Int} (h : InSigned n v) : sext n v = v := by
  rw [sext_eq_bmod hn]
  obtain ⟨m, rfl⟩ : ∃ m, n = m + 1 := ⟨n - 1, by omega⟩
  have hp : (2 : Nat) ^ (m + 1) = 2 ^ m * 2 := pow_succ 2 m
  have hq : ((2 ^ m : Nat) : Int) = (2 : Int) ^ m := by push_cast; rfl
  simp only [Nat.add_sub_cancel, InSigned, ← hq] at h
  rw [hp]
  apply Int.bmod_eq_of_le <;> push_cast at h ⊢ <;> omega

/-- `clamp` to a symmetric bound is the library's min and max. -/
theorem clamp_eq {limit : Int} (h : 0 ≤ limit) (v : Int) : clamp v (-limit) limit = max (-limit) (min limit v) := by
  unfold clamp
  split
  · omega
  · split <;> omega

/-- A clamped value lies within the bound. -/
theorem clamp_within {limit : Int} (h : 0 ≤ limit) (v : Int) :
    -limit ≤ clamp v (-limit) limit ∧ clamp v (-limit) limit ≤ limit := by
  rw [clamp_eq h]
  omega

/-- The counter holds a CNT_W-bit value. -/
theorem counterValue_lt (n : Nat) (v : Int) : counterValue n v < 2 ^ n := by
  have h0 : (0 : Int) < 2 ^ n := by positivity
  have h := Int.emod_lt_of_pos v h0
  have hl := Int.emod_nonneg v h0.ne'
  have hq : ((2 ^ n : Nat) : Int) = (2 : Int) ^ n := by push_cast; rfl
  unfold counterValue zext
  omega

/-- The counter's value as an integer. -/
theorem counterValue_cast (n : Nat) (v : Int) : (counterValue n v : Int) = v % 2 ^ n :=
  Int.toNat_of_nonneg (Int.emod_nonneg v (by positivity))

/-- What the legality test accepts: the constraints of 00_scope.md R8. -/
theorem configLegal_iff (c : Config) : configLegal c = true ↔
    2 ≤ c.cntW ∧ c.cntW ≤ 32 ∧ 1 ≤ c.posDiv ∧ 1 ≤ c.scale ∧ 0 ≤ c.integralLimit ∧ 0 ≤ c.outputLimit ∧ 1 ≤ c.res ∧
      1 ≤ c.rampStep ∧ ratesLegal c.tickRate c.telRate = true := by
  simp only [configLegal, Bool.and_eq_true, decide_eq_true_eq, and_assoc]

/-- The rates are legal when both, if given, are in order (00_scope.md R8). -/
theorem ratesLegal_iff (tick tel : Option Nat) :
    ratesLegal tick tel = true ↔ ∀ t l, tick = some t → tel = some l → l < t := by
  cases tick <;> cases tel <;> simp [ratesLegal]

end Sys2Proof.Machine
end

