-- ==== Sys2Proof/Laws/PerInstr.lean ====
section
/-! SUPPORT. Statements made per instruction. `EncodedFields`: the word of an operation, where it has one, carries an
event code of the table and no `rsv` bit (30_encoding.md R110, R111). -/

namespace Sys2Proof.Laws

open Sys2Proof

/-- The word of `i`, where it has one, has `rsv` = 0 and an event code 1 … 9. -/
def EncodedFields.Statement (i : Instr) : Prop :=
  ∀ w, encode i = some w → rsvField w = 0#10 ∧ 1 ≤ (evField w).toNat ∧ (evField w).toNat ≤ 9

/-- The statement for an operation whose word is built from its three fields. -/
theorem EncodedFields.of_eventWord {i : Instr} {ev : BitVec 4} {ax : BitVec 2} {data : BitVec 16}
    (h : encode i = some (eventWord ev ax data)) (hl : 1 ≤ ev.toNat) (hu : ev.toNat ≤ 9) :
    EncodedFields.Statement i := by
  intro w hw
  cases h.symm.trans hw
  simp [hl, hu]

/-- The statement for an operation without a word. -/
theorem EncodedFields.of_none {i : Instr} (h : encode i = none) : EncodedFields.Statement i := by
  intro w hw
  cases h.symm.trans hw

theorem EncodedFields.init : EncodedFields.Statement .init := of_eventWord rfl (by decide) (by decide)
theorem EncodedFields.ctrlTick : EncodedFields.Statement .ctrlTick := of_eventWord rfl (by decide) (by decide)
theorem EncodedFields.telTick (acc : Bool) : EncodedFields.Statement (.telTick acc) :=
  of_eventWord rfl (by decide) (by decide)
theorem EncodedFields.rxByte (b : Byte) : EncodedFields.Statement (.rxByte b) :=
  of_eventWord rfl (by decide) (by decide)
theorem EncodedFields.commitStep : EncodedFields.Statement .commitStep := of_eventWord rfl (by decide) (by decide)
theorem EncodedFields.txDone : EncodedFields.Statement .txDone := of_eventWord rfl (by decide) (by decide)
theorem EncodedFields.txErr : EncodedFields.Statement .txErr := of_eventWord rfl (by decide) (by decide)
theorem EncodedFields.posRead (i : Axis) : EncodedFields.Statement (.posRead i) :=
  of_eventWord rfl (by decide) (by decide)
theorem EncodedFields.encAdd (i : Axis) (k : Int) : EncodedFields.Statement (.encAdd i k) :=
  of_eventWord rfl (by decide) (by decide)
theorem EncodedFields.sample (i : Axis) : EncodedFields.Statement (.sample i) := of_none rfl
theorem EncodedFields.resetAll : EncodedFields.Statement .resetAll := of_none rfl
theorem EncodedFields.rampAdvance (i : Axis) (t : Int) (en : Bool) :
    EncodedFields.Statement (.rampAdvance i t en) := of_none rfl
theorem EncodedFields.pidStep (i : Axis) (sp meas : Int) : EncodedFields.Statement (.pidStep i sp meas) := of_none rfl
theorem EncodedFields.detStep (b : Byte) : EncodedFields.Statement (.detStep b) := of_none rfl
theorem EncodedFields.decStep (b : Byte) : EncodedFields.Statement (.decStep b) := of_none rfl
theorem EncodedFields.tlmAssemble : EncodedFields.Statement .tlmAssemble := of_none rfl
theorem EncodedFields.actuate : EncodedFields.Statement .actuate := of_none rfl

end Sys2Proof.Laws
end

