-- ==== Sys2Proof/Laws/State.lean ====
section
/-! SUPPORT. One lemma per field per update of the state, and the get and set laws of the per-axis bank. -/

namespace Sys2Proof

open Machine

@[simp] theorem PerAxis.get_all {α : Type} (v : α) (i : Axis) : (PerAxis.all v).get i = v := by cases i <;> rfl

@[simp] theorem PerAxis.get_set_self {α : Type} (p : PerAxis α) (i : Axis) (v : α) : (p.set i v).get i = v := by
  cases i <;> rfl

@[simp] theorem PerAxis.get_set_ne {α : Type} (p : PerAxis α) {i j : Axis} (h : i ≠ j) (v : α) :
    (p.set i v).get j = p.get j := by
  cases i <;> cases j <;> first | rfl | exact absurd rfl h

theorem PerAxis.get_set {α : Type} (p : PerAxis α) (i j : Axis) (v : α) :
    (p.set i v).get j = if i = j then v else p.get j := by
  cases i <;> cases j <;> rfl

@[simp] theorem PerAxis.set_set {α : Type} (p : PerAxis α) (i : Axis) (v w : α) : (p.set i v).set i w = p.set i w := by
  cases i <;> rfl

@[simp] theorem PerAxis.set_get {α : Type} (p : PerAxis α) (i : Axis) : p.set i (p.get i) = p := by cases i <;> rfl

theorem PerAxis.ext_get {α : Type} {p q : PerAxis α} (h : ∀ i, p.get i = q.get i) : p = q := by
  obtain ⟨a, b, c, d⟩ := p
  obtain ⟨a', b', c', d'⟩ := q
  have hA := h .A
  have hB := h .B
  have hC := h .C
  have hD := h .D
  simp only [PerAxis.get] at hA hB hC hD
  subst hA hB hC hD
  rfl

namespace Machine

@[simp] theorem State.setAxis_cfg (s : State) (i : Axis) (a : AxisState) : (s.setAxis i a).cfg = s.cfg := rfl
@[simp] theorem State.setAxis_input (s : State) (i : Axis) (a : AxisState) : (s.setAxis i a).input = s.input := rfl
@[simp] theorem State.setAxis_cnt (s : State) (i : Axis) (a : AxisState) : (s.setAxis i a).cnt = s.cnt := rfl
@[simp] theorem State.setAxis_axes (s : State) (i : Axis) (a : AxisState) : (s.setAxis i a).axes = s.axes.set i a := rfl
@[simp] theorem State.setAxis_rampEn (s : State) (i : Axis) (a : AxisState) : (s.setAxis i a).rampEn = s.rampEn := rfl
@[simp] theorem State.setAxis_decState (s : State) (i : Axis) (a : AxisState) : (s.setAxis i a).decState = s.decState := rfl
@[simp] theorem State.setAxis_plCnt (s : State) (i : Axis) (a : AxisState) : (s.setAxis i a).plCnt = s.plCnt := rfl
@[simp] theorem State.setAxis_pl (s : State) (i : Axis) (a : AxisState) : (s.setAxis i a).pl = s.pl := rfl
@[simp] theorem State.setAxis_commitIdx (s : State) (i : Axis) (a : AxisState) : (s.setAxis i a).commitIdx = s.commitIdx := rfl
@[simp] theorem State.setAxis_win0 (s : State) (i : Axis) (a : AxisState) : (s.setAxis i a).win0 = s.win0 := rfl
@[simp] theorem State.setAxis_win1 (s : State) (i : Axis) (a : AxisState) : (s.setAxis i a).win1 = s.win1 := rfl
@[simp] theorem State.setAxis_win2 (s : State) (i : Axis) (a : AxisState) : (s.setAxis i a).win2 = s.win2 := rfl
@[simp] theorem State.setAxis_busy (s : State) (i : Axis) (a : AxisState) : (s.setAxis i a).busy = s.busy := rfl
@[simp] theorem State.setAxis_txbuf (s : State) (i : Axis) (a : AxisState) : (s.setAxis i a).txbuf = s.txbuf := rfl
@[simp] theorem State.setAxis_hist (s : State) (i : Axis) (a : AxisState) : (s.setAxis i a).hist = s.hist := rfl

@[simp] theorem State.setCnt_cfg (s : State) (i : Axis) (v : Nat) : (s.setCnt i v).cfg = s.cfg := rfl
@[simp] theorem State.setCnt_input (s : State) (i : Axis) (v : Nat) : (s.setCnt i v).input = s.input := rfl
@[simp] theorem State.setCnt_cnt (s : State) (i : Axis) (v : Nat) : (s.setCnt i v).cnt = s.cnt.set i v := rfl
@[simp] theorem State.setCnt_axes (s : State) (i : Axis) (v : Nat) : (s.setCnt i v).axes = s.axes := rfl
@[simp] theorem State.setCnt_rampEn (s : State) (i : Axis) (v : Nat) : (s.setCnt i v).rampEn = s.rampEn := rfl
@[simp] theorem State.setCnt_decState (s : State) (i : Axis) (v : Nat) : (s.setCnt i v).decState = s.decState := rfl
@[simp] theorem State.setCnt_plCnt (s : State) (i : Axis) (v : Nat) : (s.setCnt i v).plCnt = s.plCnt := rfl
@[simp] theorem State.setCnt_pl (s : State) (i : Axis) (v : Nat) : (s.setCnt i v).pl = s.pl := rfl
@[simp] theorem State.setCnt_commitIdx (s : State) (i : Axis) (v : Nat) : (s.setCnt i v).commitIdx = s.commitIdx := rfl
@[simp] theorem State.setCnt_win0 (s : State) (i : Axis) (v : Nat) : (s.setCnt i v).win0 = s.win0 := rfl
@[simp] theorem State.setCnt_win1 (s : State) (i : Axis) (v : Nat) : (s.setCnt i v).win1 = s.win1 := rfl
@[simp] theorem State.setCnt_win2 (s : State) (i : Axis) (v : Nat) : (s.setCnt i v).win2 = s.win2 := rfl
@[simp] theorem State.setCnt_busy (s : State) (i : Axis) (v : Nat) : (s.setCnt i v).busy = s.busy := rfl
@[simp] theorem State.setCnt_txbuf (s : State) (i : Axis) (v : Nat) : (s.setCnt i v).txbuf = s.txbuf := rfl
@[simp] theorem State.setCnt_hist (s : State) (i : Axis) (v : Nat) : (s.setCnt i v).hist = s.hist := rfl

@[simp] theorem State.emit_cfg (s : State) (e : OutEvent) : (s.emit e).cfg = s.cfg := rfl
@[simp] theorem State.emit_input (s : State) (e : OutEvent) : (s.emit e).input = s.input := rfl
@[simp] theorem State.emit_cnt (s : State) (e : OutEvent) : (s.emit e).cnt = s.cnt := rfl
@[simp] theorem State.emit_axes (s : State) (e : OutEvent) : (s.emit e).axes = s.axes := rfl
@[simp] theorem State.emit_rampEn (s : State) (e : OutEvent) : (s.emit e).rampEn = s.rampEn := rfl
@[simp] theorem State.emit_decState (s : State) (e : OutEvent) : (s.emit e).decState = s.decState := rfl
@[simp] theorem State.emit_plCnt (s : State) (e : OutEvent) : (s.emit e).plCnt = s.plCnt := rfl
@[simp] theorem State.emit_pl (s : State) (e : OutEvent) : (s.emit e).pl = s.pl := rfl
@[simp] theorem State.emit_commitIdx (s : State) (e : OutEvent) : (s.emit e).commitIdx = s.commitIdx := rfl
@[simp] theorem State.emit_win0 (s : State) (e : OutEvent) : (s.emit e).win0 = s.win0 := rfl
@[simp] theorem State.emit_win1 (s : State) (e : OutEvent) : (s.emit e).win1 = s.win1 := rfl
@[simp] theorem State.emit_win2 (s : State) (e : OutEvent) : (s.emit e).win2 = s.win2 := rfl
@[simp] theorem State.emit_busy (s : State) (e : OutEvent) : (s.emit e).busy = s.busy := rfl
@[simp] theorem State.emit_txbuf (s : State) (e : OutEvent) : (s.emit e).txbuf = s.txbuf := rfl
@[simp] theorem State.emit_hist (s : State) (e : OutEvent) : (s.emit e).hist = s.hist ++ [e] := rfl

@[simp] theorem State.setRampEn_cfg (s : State) (v : Bool) : (s.setRampEn v).cfg = s.cfg := rfl
@[simp] theorem State.setRampEn_input (s : State) (v : Bool) : (s.setRampEn v).input = s.input := rfl
@[simp] theorem State.setRampEn_cnt (s : State) (v : Bool) : (s.setRampEn v).cnt = s.cnt := rfl
@[simp] theorem State.setRampEn_axes (s : State) (v : Bool) : (s.setRampEn v).axes = s.axes := rfl
@[simp] theorem State.setRampEn_rampEn (s : State) (v : Bool) : (s.setRampEn v).rampEn = v := rfl
@[simp] theorem State.setRampEn_decState (s : State) (v : Bool) : (s.setRampEn v).decState = s.decState := rfl
@[simp] theorem State.setRampEn_plCnt (s : State) (v : Bool) : (s.setRampEn v).plCnt = s.plCnt := rfl
@[simp] theorem State.setRampEn_pl (s : State) (v : Bool) : (s.setRampEn v).pl = s.pl := rfl
@[simp] theorem State.setRampEn_commitIdx (s : State) (v : Bool) : (s.setRampEn v).commitIdx = s.commitIdx := rfl
@[simp] theorem State.setRampEn_win0 (s : State) (v : Bool) : (s.setRampEn v).win0 = s.win0 := rfl
@[simp] theorem State.setRampEn_win1 (s : State) (v : Bool) : (s.setRampEn v).win1 = s.win1 := rfl
@[simp] theorem State.setRampEn_win2 (s : State) (v : Bool) : (s.setRampEn v).win2 = s.win2 := rfl
@[simp] theorem State.setRampEn_busy (s : State) (v : Bool) : (s.setRampEn v).busy = s.busy := rfl
@[simp] theorem State.setRampEn_txbuf (s : State) (v : Bool) : (s.setRampEn v).txbuf = s.txbuf := rfl
@[simp] theorem State.setRampEn_hist (s : State) (v : Bool) : (s.setRampEn v).hist = s.hist := rfl

@[simp] theorem State.setBusy_cfg (s : State) : (s.setBusy).cfg = s.cfg := rfl
@[simp] theorem State.setBusy_input (s : State) : (s.setBusy).input = s.input := rfl
@[simp] theorem State.setBusy_cnt (s : State) : (s.setBusy).cnt = s.cnt := rfl
@[simp] theorem State.setBusy_axes (s : State) : (s.setBusy).axes = s.axes := rfl
@[simp] theorem State.setBusy_rampEn (s : State) : (s.setBusy).rampEn = s.rampEn := rfl
@[simp] theorem State.setBusy_decState (s : State) : (s.setBusy).decState = s.decState := rfl
@[simp] theorem State.setBusy_plCnt (s : State) : (s.setBusy).plCnt = s.plCnt := rfl
@[simp] theorem State.setBusy_pl (s : State) : (s.setBusy).pl = s.pl := rfl
@[simp] theorem State.setBusy_commitIdx (s : State) : (s.setBusy).commitIdx = s.commitIdx := rfl
@[simp] theorem State.setBusy_win0 (s : State) : (s.setBusy).win0 = s.win0 := rfl
@[simp] theorem State.setBusy_win1 (s : State) : (s.setBusy).win1 = s.win1 := rfl
@[simp] theorem State.setBusy_win2 (s : State) : (s.setBusy).win2 = s.win2 := rfl
@[simp] theorem State.setBusy_busy (s : State) : (s.setBusy).busy = true := rfl
@[simp] theorem State.setBusy_txbuf (s : State) : (s.setBusy).txbuf = s.txbuf := rfl
@[simp] theorem State.setBusy_hist (s : State) : (s.setBusy).hist = s.hist := rfl

@[simp] theorem State.clearBusy_cfg (s : State) : (s.clearBusy).cfg = s.cfg := rfl
@[simp] theorem State.clearBusy_input (s : State) : (s.clearBusy).input = s.input := rfl
@[simp] theorem State.clearBusy_cnt (s : State) : (s.clearBusy).cnt = s.cnt := rfl
@[simp] theorem State.clearBusy_axes (s : State) : (s.clearBusy).axes = s.axes := rfl
@[simp] theorem State.clearBusy_rampEn (s : State) : (s.clearBusy).rampEn = s.rampEn := rfl
@[simp] theorem State.clearBusy_decState (s : State) : (s.clearBusy).decState = s.decState := rfl
@[simp] theorem State.clearBusy_plCnt (s : State) : (s.clearBusy).plCnt = s.plCnt := rfl
@[simp] theorem State.clearBusy_pl (s : State) : (s.clearBusy).pl = s.pl := rfl
@[simp] theorem State.clearBusy_commitIdx (s : State) : (s.clearBusy).commitIdx = s.commitIdx := rfl
@[simp] theorem State.clearBusy_win0 (s : State) : (s.clearBusy).win0 = s.win0 := rfl
@[simp] theorem State.clearBusy_win1 (s : State) : (s.clearBusy).win1 = s.win1 := rfl
@[simp] theorem State.clearBusy_win2 (s : State) : (s.clearBusy).win2 = s.win2 := rfl
@[simp] theorem State.clearBusy_busy (s : State) : (s.clearBusy).busy = false := rfl
@[simp] theorem State.clearBusy_txbuf (s : State) : (s.clearBusy).txbuf = s.txbuf := rfl
@[simp] theorem State.clearBusy_hist (s : State) : (s.clearBusy).hist = s.hist := rfl

@[simp] theorem State.shiftWindow_cfg (s : State) (b : Byte) : (s.shiftWindow b).cfg = s.cfg := rfl
@[simp] theorem State.shiftWindow_input (s : State) (b : Byte) : (s.shiftWindow b).input = s.input := rfl
@[simp] theorem State.shiftWindow_cnt (s : State) (b : Byte) : (s.shiftWindow b).cnt = s.cnt := rfl
@[simp] theorem State.shiftWindow_axes (s : State) (b : Byte) : (s.shiftWindow b).axes = s.axes := rfl
@[simp] theorem State.shiftWindow_rampEn (s : State) (b : Byte) : (s.shiftWindow b).rampEn = s.rampEn := rfl
@[simp] theorem State.shiftWindow_decState (s : State) (b : Byte) : (s.shiftWindow b).decState = s.decState := rfl
@[simp] theorem State.shiftWindow_plCnt (s : State) (b : Byte) : (s.shiftWindow b).plCnt = s.plCnt := rfl
@[simp] theorem State.shiftWindow_pl (s : State) (b : Byte) : (s.shiftWindow b).pl = s.pl := rfl
@[simp] theorem State.shiftWindow_commitIdx (s : State) (b : Byte) : (s.shiftWindow b).commitIdx = s.commitIdx := rfl
@[simp] theorem State.shiftWindow_win0 (s : State) (b : Byte) : (s.shiftWindow b).win0 = s.win1 := rfl
@[simp] theorem State.shiftWindow_win1 (s : State) (b : Byte) : (s.shiftWindow b).win1 = s.win2 := rfl
@[simp] theorem State.shiftWindow_win2 (s : State) (b : Byte) : (s.shiftWindow b).win2 = b := rfl
@[simp] theorem State.shiftWindow_busy (s : State) (b : Byte) : (s.shiftWindow b).busy = s.busy := rfl
@[simp] theorem State.shiftWindow_txbuf (s : State) (b : Byte) : (s.shiftWindow b).txbuf = s.txbuf := rfl
@[simp] theorem State.shiftWindow_hist (s : State) (b : Byte) : (s.shiftWindow b).hist = s.hist := rfl

@[simp] theorem State.clearWindow_cfg (s : State) : (s.clearWindow).cfg = s.cfg := rfl
@[simp] theorem State.clearWindow_input (s : State) : (s.clearWindow).input = s.input := rfl
@[simp] theorem State.clearWindow_cnt (s : State) : (s.clearWindow).cnt = s.cnt := rfl
@[simp] theorem State.clearWindow_axes (s : State) : (s.clearWindow).axes = s.axes := rfl
@[simp] theorem State.clearWindow_rampEn (s : State) : (s.clearWindow).rampEn = s.rampEn := rfl
@[simp] theorem State.clearWindow_decState (s : State) : (s.clearWindow).decState = s.decState := rfl
@[simp] theorem State.clearWindow_plCnt (s : State) : (s.clearWindow).plCnt = s.plCnt := rfl
@[simp] theorem State.clearWindow_pl (s : State) : (s.clearWindow).pl = s.pl := rfl
@[simp] theorem State.clearWindow_commitIdx (s : State) : (s.clearWindow).commitIdx = s.commitIdx := rfl
@[simp] theorem State.clearWindow_win0 (s : State) : (s.clearWindow).win0 = 0x00#8 := rfl
@[simp] theorem State.clearWindow_win1 (s : State) : (s.clearWindow).win1 = 0x00#8 := rfl
@[simp] theorem State.clearWindow_win2 (s : State) : (s.clearWindow).win2 = 0x00#8 := rfl
@[simp] theorem State.clearWindow_busy (s : State) : (s.clearWindow).busy = s.busy := rfl
@[simp] theorem State.clearWindow_txbuf (s : State) : (s.clearWindow).txbuf = s.txbuf := rfl
@[simp] theorem State.clearWindow_hist (s : State) : (s.clearWindow).hist = s.hist := rfl

theorem State.axis_eq (s : State) (i : Axis) : s.axis i = s.axes.get i := rfl

@[simp] theorem State.setAxis_axis_self (s : State) (i : Axis) (a : AxisState) : (s.setAxis i a).axis i = a :=
  PerAxis.get_set_self s.axes i a

@[simp] theorem State.setAxis_axis_ne (s : State) {i j : Axis} (h : i ≠ j) (a : AxisState) :
    (s.setAxis i a).axis j = s.axis j :=
  PerAxis.get_set_ne s.axes h a

theorem State.setAxis_axis (s : State) (i j : Axis) (a : AxisState) :
    (s.setAxis i a).axis j = if i = j then a else s.axis j :=
  PerAxis.get_set s.axes i j a

@[simp] theorem State.setAxis_setAxis (s : State) (i : Axis) (a b : AxisState) :
    (s.setAxis i a).setAxis i b = s.setAxis i b := by
  simp [State.setAxis]

@[simp] theorem State.setCnt_axis (s : State) (j : Axis) (v : Nat) (i : Axis) : (s.setCnt j v).axis i = s.axis i := rfl
@[simp] theorem State.emit_axis (s : State) (e : OutEvent) (i : Axis) : (s.emit e).axis i = s.axis i := rfl
@[simp] theorem State.setRampEn_axis (s : State) (v : Bool) (i : Axis) : (s.setRampEn v).axis i = s.axis i := rfl
@[simp] theorem State.setBusy_axis (s : State) (i : Axis) : (s.setBusy).axis i = s.axis i := rfl
@[simp] theorem State.clearBusy_axis (s : State) (i : Axis) : (s.clearBusy).axis i = s.axis i := rfl
@[simp] theorem State.shiftWindow_axis (s : State) (b : Byte) (i : Axis) : (s.shiftWindow b).axis i = s.axis i := rfl
@[simp] theorem State.clearWindow_axis (s : State) (i : Axis) : (s.clearWindow).axis i = s.axis i := rfl

/-- The clear of a counter, once (10_state.md R32). -/
theorem State.clearCnt_eq (s : State) (i : Axis) :
    s.clearCnt i = { s with cnt := s.cnt.set i 0, hist := s.hist ++ [.cntClr i] } := rfl

/-- The write of a position, once (10_state.md R33). -/
theorem State.setPos_eq (s : State) (i : Axis) (v : BitVec 32) :
    s.setPos i v = { s with axes := s.axes.set i { s.axes.get i with pos := v } } := rfl

end Machine

end Sys2Proof
end

