-- ==== Sys2Proof/Laws/Units.lean ====
section
/-! SUPPORT. One lemma for each shared operation that says once everything it can do. -/

namespace Sys2Proof.Machine

open Sys2Proof

/-- SAMPLE, once (40_encoder_tracker.md R142). -/
theorem sampleAxis_eq (i : Axis) (s : State) : sampleAxis i s =
    (sext s.cfg.cntW (s.cnt.get i),
      { s with
        cnt := s.cnt.set i 0
        axes := s.axes.set i { s.axes.get i with
          lastDelta := sext s.cfg.cntW (s.cnt.get i)
          pos := wrap32 ((s.axes.get i).pos.toInt + tdiv (sext s.cfg.cntW (s.cnt.get i)) s.cfg.posDiv) }
        hist := s.hist ++ [.cntClr i] }) := by
  simp [sampleAxis, State.clearCnt, State.setPos, State.axis, State.setAxis, State.setCnt, State.emit]

/-- RESET_ALL, once (40_encoder_tracker.md R144). -/
theorem zeroPositions_eq (s : State) : zeroPositions s =
    { s with axes := ⟨{ s.axes.a with pos := 0#32 }, { s.axes.b with pos := 0#32 }, { s.axes.c with pos := 0#32 },
      { s.axes.d with pos := 0#32 }⟩ } := rfl

theorem zeroPositions_axis (s : State) (i : Axis) : (zeroPositions s).axis i = { s.axis i with pos := 0#32 } := by
  cases i <;> rfl

/-- PID_STEP, once (41_pid.md R161). -/
theorem pidAxis_eq (i : Axis) (sp meas : Int) (s : State) :
    let a := s.axes.get i
    let integ := clamp (a.integ + (sp - meas)) (-s.cfg.integralLimit) s.cfg.integralLimit
    let raw := tdiv (s.cfg.kp.get i * (sp - meas) + s.cfg.ki.get i * integ + s.cfg.kd.get i * (sp - meas - a.prevErr))
      s.cfg.scale
    let out := clamp raw (-s.cfg.outputLimit) s.cfg.outputLimit
    pidAxis i sp meas s =
      (out, { s with axes := s.axes.set i { a with integ := integ, out := out, prevErr := sp - meas } }) := by
  simp [pidAxis, State.axis, State.setAxis]

/-- RAMP_ADVANCE, once (42_ramp.md R181). -/
theorem rampAxis_eq (i : Axis) (t : Int) (en : Bool) (s : State) :
    let a := s.axes.get i
    let g := t * s.cfg.res
    let d := g - a.ramp
    let ramp := if en = false then g else if (d.natAbs : Int) < s.cfg.rampStep then g
      else a.ramp + d.sign * s.cfg.rampStep
    rampAxis i t en s = (tdiv ramp s.cfg.res, { s with axes := s.axes.set i { a with ramp := ramp } }) := rfl

/-- The ramp one call of RAMP_ADVANCE leaves (42_ramp.md R181). -/
def rampRecord (c : Config) (t : Int) (en : Bool) (ramp : Int) : Int :=
  let g := t * c.res
  let d := g - ramp
  if en = false then g else if (d.natAbs : Int) < c.rampStep then g else ramp + d.sign * c.rampStep

/-- The record of an axis after one control tick, from its record and its counter before (45_control_tick.md R271). -/
def tickRecord (c : Config) (i : Axis) (en : Bool) (cnt : Nat) (a : AxisState) : AxisState :=
  let d := sext c.cntW cnt
  let ramp := rampRecord c a.target.toInt en a.ramp
  let e := tdiv ramp c.res + a.bias.toInt - d
  let integ := clamp (a.integ + e) (-c.integralLimit) c.integralLimit
  let raw := tdiv (c.kp.get i * e + c.ki.get i * integ + c.kd.get i * (e - a.prevErr)) c.scale
  { a with
    pos := wrap32 (a.pos.toInt + tdiv d c.posDiv)
    lastDelta := d
    ramp := ramp
    integ := integ
    out := clamp raw (-c.outputLimit) c.outputLimit
    prevErr := e }

/-- One axis of a control tick, once (45_control_tick.md R271). -/
theorem tickAxis_eq (en : Bool) (s : State) (i : Axis) : tickAxis en s i =
    { s with
      cnt := s.cnt.set i 0
      axes := s.axes.set i (tickRecord s.cfg i en (s.cnt.get i) (s.axes.get i))
      hist := s.hist ++ [.cntClr i] } := by
  simp only [tickAxis, sampleAxis_eq, rampAxis_eq, pidAxis_eq, State.axis, PerAxis.get_set_self, PerAxis.set_set,
    tickRecord, rampRecord]

/-- CTRL_TICK, once (45_control_tick.md R271). -/
theorem execCtrlTick_eq (s : State) :
    let r := fun i => tickRecord s.cfg i s.rampEn (s.cnt.get i) (s.axes.get i)
    execCtrlTick s = .next { s with
      cnt := PerAxis.all 0
      axes := ⟨r .A, r .B, r .C, r .D⟩
      hist := s.hist ++ [.cntClr .A, .cntClr .B, .cntClr .C, .cntClr .D,
        .act (r .A).out (r .B).out (r .C).out (r .D).out] } := by
  simp [execCtrlTick, Axis.inOrder, tickAxis_eq, actuateAll, State.emit, State.axis, PerAxis.set, PerAxis.get,
    PerAxis.all]

/-- INIT, once (45_control_tick.md R275). -/
theorem initialise_eq (s : State) : initialise s =
    { State.reset with
      cfg := s.cfg
      input := s.input
      hist := s.hist ++ [.cntClr .A, .cntClr .B, .cntClr .C, .cntClr .D] } := by
  simp [initialise, Axis.inOrder, State.setAxis, State.clearCnt, State.setCnt, State.emit, State.setRampEn,
    State.clearBusy, State.reset, PerAxis.set, PerAxis.all]

/-- DET_STEP, once (43_command_decoder.md R202). -/
theorem detectByte_eq (b : Byte) (s : State) : detectByte b s =
    if s.win1 = 0x21#8 ∧ s.win2 = 0x40#8 ∧ b = 0x21#8 then
      { zeroPositions s with win0 := 0x00#8, win1 := 0x00#8, win2 := 0x00#8 }
    else { s with win0 := s.win1, win1 := s.win2, win2 := b } := by
  simp [detectByte, State.shiftWindow, State.clearWindow, resetSeq, zeroPositions_eq]

/-- DET_STEP writes the positions and the window only. -/
theorem detectByte_frame (b : Byte) (s : State) :
    (detectByte b s).cfg = s.cfg ∧ (detectByte b s).input = s.input ∧ (detectByte b s).cnt = s.cnt ∧
      (detectByte b s).rampEn = s.rampEn ∧ (detectByte b s).decState = s.decState ∧
      (detectByte b s).plCnt = s.plCnt ∧ (detectByte b s).pl = s.pl ∧ (detectByte b s).commitIdx = s.commitIdx ∧
      (detectByte b s).busy = s.busy ∧ (detectByte b s).txbuf = s.txbuf ∧ (detectByte b s).hist = s.hist := by
  rw [detectByte_eq]
  split <;> simp [zeroPositions_eq]

/-- What DET_STEP leaves of an axis: everything but the position, which is kept or zeroed. -/
theorem detectByte_axis (b : Byte) (s : State) (i : Axis) : (detectByte b s).axis i =
    if s.win1 = 0x21#8 ∧ s.win2 = 0x40#8 ∧ b = 0x21#8 then { s.axis i with pos := 0#32 } else s.axis i := by
  rw [detectByte_eq]
  split
  · exact zeroPositions_axis s i
  · rfl

/-- DEC_STEP, once (43_command_decoder.md R203): everything it can do when it completes. -/
theorem decodeByte_cases {b : Byte} {s t : State} (h : decodeByte b s = .ok t) :
    (s.decState = receivingPayload ∧ s.plCnt.toNat < 9 ∧
      t = { s with
        pl := memWrite s.pl s.plCnt.toNat 1 (b.toNat : Int)
        plCnt := s.plCnt + 1#4
        decState := if s.plCnt.toNat = 8 then awaitTail else receivingPayload }) ∨
    (s.decState = awaitTail ∧
      t = { s with
        commitIdx := if b = 0x21#8 then 0#4 else s.commitIdx
        decState := awaitHeader
        plCnt := 0#4 }) ∨
    (s.decState ≠ receivingPayload ∧ s.decState ≠ awaitTail ∧
      t = if b = 0x23#8 then { s with decState := receivingPayload, plCnt := 0#4 } else s) := by
  unfold decodeByte at h
  split at h
  · rename_i hd
    split at h
    · rename_i hp
      change s.plCnt.toNat < 9 at hp
      have hadd : (s.plCnt + 1#4).toNat = s.plCnt.toNat + 1 := by
        rw [BitVec.toNat_add]
        exact Nat.mod_eq_of_lt (by simp; omega)
      refine .inl ⟨hd, hp, ?_⟩
      injection h with h
      subst h
      simp only [hadd, payloadLen, Nat.reduceEqDiff]
      split
      · rfl
      · rw [← hd]
    · cases h
  · split at h
    · rename_i hd
      refine .inr (.inl ⟨hd, ?_⟩)
      injection h with h
      exact h.symm
    · rename_i h1 h2
      refine .inr (.inr ⟨h1, h2, ?_⟩)
      injection h with h
      exact h.symm

/-- DEC_STEP stops only where it would form an offset outside `pl` (20_memory.md R70). -/
theorem decodeByte_error_iff (b : Byte) (s : State) (f : Fault) :
    decodeByte b s = .error f ↔ s.decState = receivingPayload ∧ 9 ≤ s.plCnt.toNat ∧ f = .outsidePayload := by
  unfold decodeByte
  split
  · split
    · rename_i hp
      change s.plCnt.toNat < 9 at hp
      simp
      omega
    · rename_i hp
      change ¬ s.plCnt.toNat < 9 at hp
      simp_all [eq_comm]
  · split <;> simp_all

/-- RX_BYTE completes exactly when DEC_STEP does after DET_STEP, and only when the block is ready. -/
theorem execRxByte_next {b : Byte} {s t : State} (h : execRxByte b s = .next t) :
    s.commitIdx = commitNone ∧ decodeByte b (detectByte b s) = .ok t := by
  unfold execRxByte State.rxReady outcomeOf at h
  split at h
  · rename_i hr
    refine ⟨by simpa using hr, ?_⟩
    split at h
    · cases h
      assumption
    · cases h
  · cases h

/-- The payload byte a COMMIT_STEP reads is the byte of `pl`. -/
theorem payloadByte_eq (s : State) (k : Nat) : payloadByte s k = Memory.read s.pl k := by
  simp [payloadByte, memRead_one]

/-- The write of one command field, once (43_command_decoder.md R206). -/
theorem commitField_cases (k : Nat) (s : State) :
    (k ≤ 3 ∧ commitField k s =
      s.setAxis (axisOfIndex k) { s.axis (axisOfIndex k) with target := Memory.read s.pl k }) ∨
    (k = 4 ∧ commitField k s = { s with rampEn := (Memory.read s.pl 4).getLsbD 0 }) ∨
    (5 ≤ k ∧ k ≤ 8 ∧ commitField k s =
      s.setAxis (axisOfIndex (k - 5)) { s.axis (axisOfIndex (k - 5)) with bias := Memory.read s.pl k }) ∨
    (9 ≤ k ∧ commitField k s = s) := by
  unfold commitField
  simp only [payloadByte_eq, int8OfByte, flagBit, State.setRampEn]
  by_cases h3 : k ≤ 3
  · exact .inl ⟨h3, if_pos h3⟩
  · by_cases h4 : k = 4
    · subst h4
      exact .inr (.inl ⟨rfl, rfl⟩)
    · by_cases h8 : k ≤ 8
      · exact .inr (.inr (.inl ⟨by omega, h8, by simp only [h3, h4, h8, if_true, if_false]⟩))
      · exact .inr (.inr (.inr ⟨by omega, by simp only [h3, h4, h8, if_false]⟩))

/-- COMMIT_STEP completes exactly while a commit is in progress. -/
theorem execCommitStep_next {s t : State} (h : execCommitStep s = .next t) :
    s.commitIdx ≠ commitNone ∧
      t = { commitField s.commitIdx.toNat s with commitIdx := nextCommitIdx s.commitIdx } := by
  unfold execCommitStep at h
  split at h
  · cases h
  · cases h
    exact ⟨‹_›, rfl⟩

/-- TEL_TICK, once (44_telemetry.md R241). -/
theorem execTelTick_cases (acc : Bool) (s : State) :
    (s.busy = true ∧ execTelTick acc s = .next s) ∨
    (s.busy = false ∧ acc = true ∧ execTelTick acc s = .next { s with
      txbuf := assembledBuffer s
      busy := true
      hist := s.hist ++ [.tx (bytesOf (assembledBuffer s) 42)] }) ∨
    (s.busy = false ∧ acc = false ∧ execTelTick acc s = .next { s with txbuf := assembledBuffer s }) := by
  by_cases hb : s.busy = true
  · exact .inl ⟨hb, by simp [execTelTick, hb]⟩
  · have hf : s.busy = false := by simpa using hb
    cases acc
    · exact .inr (.inr ⟨hf, rfl, by simp [execTelTick, hf, assembleFrame]⟩)
    · exact .inr (.inl ⟨hf, rfl, by
        simp [execTelTick, hf, assembleFrame, State.setBusy, State.emit, txFrame, telemetryLen]⟩)

/-- Every byte TLM_ASSEMBLE leaves in `txbuf` (44_telemetry.md R242, 30_encoding.md R105). -/
theorem read_assembledBuffer (s : State) (a : Nat) : Memory.read (assembledBuffer s) a =
    if a = 0 then 0x23#8
    else if a < 9 then
      BitVec.ofInt 8 (sext 16 (s.axis (axisOfIndex ((a - 1) / 2))).target.toInt / 256 ^ ((a - 1) % 2))
    else if a < 25 then BitVec.ofInt 8 ((s.axis (axisOfIndex ((a - 9) / 4))).pos.toInt / 256 ^ ((a - 9) % 4))
    else if a < 41 then BitVec.ofInt 8 (sext 32 (s.axis (axisOfIndex ((a - 25) / 4))).lastDelta / 256 ^ ((a - 25) % 4))
    else if a = 41 then 0x21#8
    else Memory.read s.txbuf a := by
  by_cases h : a < 42
  · interval_cases a <;> simp [assembledBuffer, Axis.inOrder, read_memWrite, targetOffset, positionOffset, speedOffset,
      tailOffset, Axis.index, header, tail, axisOfIndex, axisOfField]
  · simp only [assembledBuffer, Axis.inOrder, List.foldl, read_memWrite, targetOffset, positionOffset, speedOffset,
      tailOffset, Axis.index]
    repeat rw [if_neg (by omega)]

/-- TLM_ASSEMBLE keeps the canonical form of `txbuf`. -/
theorem assembledBuffer_wf {s : State} (h : Memory.wf 42 s.txbuf) : Memory.wf 42 (assembledBuffer s) := by
  simp only [assembledBuffer, Axis.inOrder, List.foldl, targetOffset, positionOffset, speedOffset, tailOffset, Axis.index]
  refine memWrite_wf _ ?_ (by decide) _
  repeat' first
    | exact memWrite_wf _ h (by decide) _
    | refine memWrite_wf _ ?_ (by decide) _

/-- A step that answers a next state is an idle step or the performance of one decoded event. -/
theorem step_cases {s t : State} (h : step s = .next t) :
    configLegal s.cfg = true ∧ (s.input = [] ∧ t = s ∨
      ∃ w rest i, s.input = w :: rest ∧ decode w = .ok i ∧ exec i { s with input := rest } = .next t) := by
  unfold step at h
  split at h
  · rename_i hc
    refine ⟨hc, ?_⟩
    unfold takeEvent at h
    cases hs : s.input with
    | nil =>
      rw [hs] at h
      cases h
      exact .inl ⟨rfl, rfl⟩
    | cons w rest =>
      rw [hs] at h
      refine .inr ⟨w, rest, ?_⟩
      dsimp only at h
      cases hd : decode w with
      | error e =>
        rw [hd] at h
        cases h
      | ok i =>
        rw [hd] at h
        exact ⟨i, rfl, rfl, h⟩
  · cases h

end Sys2Proof.Machine
end

