-- ==== Sys2Proof/Laws/Runs.lean ====
section
/-! SUPPORT. What the byte and commit operations leave as it was, and how runs of operations compose. -/

namespace Sys2Proof.Machine

open Sys2Proof

/-- A run of two lists is the run of the first and then of the second (20_memory.md R81). -/
theorem runInstrs_append (p q : List Instr) (s : State) : runInstrs (p ++ q) s =
    match runInstrs p s with
    | .next t => runInstrs q t
    | .fault f => .fault f
    | .refused r => .refused r := by
  induction p generalizing s with
  | nil => rfl
  | cons i p ih =>
    simp only [List.cons_append, runInstrs]
    cases exec i s <;> simp [ih]

/-- A run whose first operation completes goes on from its state. -/
theorem runInstrs_cons {i : Instr} {s t : State} (h : exec i s = .next t) (rest : List Instr) :
    runInstrs (i :: rest) s = runInstrs rest t := by simp only [runInstrs, h]

/-- DEC_STEP completes wherever the payload offset lies in `pl` (20_memory.md R70). -/
theorem decodeByte_ok {b : Byte} {s : State} (h : s.decState = 1#2 → s.plCnt.toNat < 9) :
    ∃ t, decodeByte b s = .ok t := by
  cases hd : decodeByte b s with
  | ok t => exact ⟨t, rfl⟩
  | error f =>
    obtain ⟨h1, h2, _⟩ := (decodeByte_error_iff b s f).1 hd
    have := h h1
    omega

/-- DEC_STEP writes the decoder elements, `pl` and `commit_idx` only (43_command_decoder.md R203). -/
theorem decodeByte_frame {b : Byte} {s t : State} (h : decodeByte b s = .ok t) :
    t.axes = s.axes ∧ t.cfg = s.cfg ∧ t.cnt = s.cnt ∧ t.rampEn = s.rampEn ∧ t.win0 = s.win0 ∧ t.win1 = s.win1 ∧
      t.win2 = s.win2 ∧ t.input = s.input ∧ t.busy = s.busy ∧ t.txbuf = s.txbuf ∧ t.hist = s.hist := by
  rcases decodeByte_cases h with ⟨_, _, rfl⟩ | ⟨_, rfl⟩ | ⟨_, _, h⟩
  · simp
  · simp
  · rw [h]
    split <;> simp

/-- RX_BYTE writes the decoder elements, the window and, on a trigger, the positions (43_command_decoder.md R200). -/
theorem execRxByte_frame {b : Byte} {s t : State} (h : execRxByte b s = .next t) :
    t.cfg = s.cfg ∧ t.input = s.input ∧ t.cnt = s.cnt ∧ t.rampEn = s.rampEn ∧ t.busy = s.busy ∧ t.txbuf = s.txbuf ∧
      t.hist = s.hist ∧ ∀ x, t.axis x =
        if s.win1 = 0x21#8 ∧ s.win2 = 0x40#8 ∧ b = 0x21#8 then { s.axis x with pos := 0#32 } else s.axis x := by
  obtain ⟨_, h⟩ := execRxByte_next h
  obtain ⟨f1, f2, f3, f4, f5, f6, f7, f8, f9, f10, f11⟩ := detectByte_frame b s
  obtain ⟨g1, g2, g3, g4, g5, g6, g7, g8, g9, g10, g11⟩ := decodeByte_frame h
  refine ⟨g2.trans f1, g8.trans f2, g3.trans f3, g4.trans f4, g9.trans f9, g10.trans f10, g11.trans f11, fun x => ?_⟩
  rw [← detectByte_axis, State.axis, State.axis, g1]

/-- COMMIT_STEP writes one target, one bias or the ramp-enable, and the index, only (43_command_decoder.md R206). -/
theorem execCommitStep_frame {s t : State} (h : execCommitStep s = .next t) :
    t.cfg = s.cfg ∧ t.input = s.input ∧ t.cnt = s.cnt ∧ t.decState = s.decState ∧ t.plCnt = s.plCnt ∧ t.pl = s.pl ∧
      t.win0 = s.win0 ∧ t.win1 = s.win1 ∧ t.win2 = s.win2 ∧ t.busy = s.busy ∧ t.txbuf = s.txbuf ∧ t.hist = s.hist ∧
      ∀ x, ∃ target bias, t.axis x = { s.axis x with target := target, bias := bias } := by
  have key : ∀ (y : Axis) (tg bi : BitVec 8) (x : Axis),
      ∃ target bias, (s.axes.set y { s.axis y with target := tg, bias := bi }).get x =
        { s.axis x with target := target, bias := bias } := by
    intro y tg bi x
    rw [PerAxis.get_set]
    split
    · rename_i hh
      subst hh
      exact ⟨tg, bi, rfl⟩
    · exact ⟨(s.axis x).target, (s.axis x).bias, rfl⟩
  obtain ⟨_, rfl⟩ := execCommitStep_next h
  rcases commitField_cases s.commitIdx.toNat s with ⟨_, h⟩ | ⟨_, h⟩ | ⟨_, _, h⟩ | ⟨_, h⟩ <;> rw [h] <;>
    refine ⟨rfl, rfl, rfl, rfl, rfl, rfl, rfl, rfl, rfl, rfl, rfl, rfl, ?_⟩
  · exact key _ _ _
  · exact fun x => ⟨(s.axis x).target, (s.axis x).bias, rfl⟩
  · exact key _ _ _
  · exact fun x => ⟨(s.axis x).target, (s.axis x).bias, rfl⟩

end Sys2Proof.Machine
end

