-- ==== Sys2Proof/Tests/Slice0.lean ====
section
/-! SUPPORT. Tests of the model against the spec's own vectors (95_test_vectors.md; each theorem names its vector), ill-formed
terms for each well-formedness check, and for every statement with hypotheses a concrete case that meets them. -/

namespace Sys2Proof.Tests

open Sys2Proof Sys2Proof.Machine

/-- What `f` reads of the next state, none where there is no next state. -/
def got {α : Type} (o : Host.Outcome State Fault Refusal) (f : State → α) : Option α :=
  match o with
  | .next t => some (f t)
  | .fault _ => none
  | .refused _ => none

/-- The fault of an outcome, none where there is none. -/
def stop (o : Host.Outcome State Fault Refusal) : Option Fault :=
  match o with
  | .next _ => none
  | .fault f => some f
  | .refused _ => none

/-- The refusal of an outcome, none where there is none. -/
def refusal (o : Host.Outcome State Fault Refusal) : Option Refusal :=
  match o with
  | .next _ => none
  | .fault _ => none
  | .refused r => some r

/-- The zero state with the positions [100, −3, 0, 7] the decoder and detector vectors start from. -/
def preset : State :=
  { State.reset with
    axes := ⟨{ AxisState.zero with pos := 100#32 }, { AxisState.zero with pos := BitVec.ofInt 32 (-3) }, AxisState.zero,
      { AxisState.zero with pos := 7#32 }⟩ }

/-- The four positions. -/
def positions (s : State) : List Int := Axis.inOrder.map fun i => (s.axis i).pos.toInt

/-- The payload of frame F of 95_test_vectors.md, in canonical form. -/
def payloadF : Memory :=
  [(0, 0x0A#8), (1, 0xFB#8), (3, 0x7F#8), (4, 0x01#8), (5, 0x01#8), (6, 0x02#8), (7, 0x80#8), (8, 0xFF#8)]

/-- The zero state with frame F committing, field `k` next. -/
def committing (k : BitVec 4) : State := { State.reset with pl := payloadF, commitIdx := k }

/-! ### Decoding: the words EW-1 … EW-22, written out from the encoding -/

theorem test_decode_init : decode 0x10000000#32 = .ok .init := by decide
theorem test_decode_ctrlTick : decode 0x20000000#32 = .ok .ctrlTick := by decide
theorem test_decode_telTick_accepted : decode 0x30000001#32 = .ok (.telTick true) := by decide
theorem test_decode_telTick_rejected : decode 0x30000000#32 = .ok (.telTick false) := by decide
theorem test_decode_rxByte : decode 0x40000023#32 = .ok (.rxByte 0x23#8) := by decide
theorem test_decode_commitStep : decode 0x50000000#32 = .ok .commitStep := by decide
theorem test_decode_txDone : decode 0x60000000#32 = .ok .txDone := by decide
theorem test_decode_txErr : decode 0x70000000#32 = .ok .txErr := by decide
theorem test_decode_posRead_C : decode 0x88000000#32 = .ok (.posRead .C) := by decide
theorem test_decode_posRead_D : decode 0x8C000000#32 = .ok (.posRead .D) := by decide
theorem test_decode_encAdd_negative : decode 0x9400FFFB#32 = .ok (.encAdd .B (-5)) := by decide
theorem test_decode_encAdd_positive : decode 0x9C00012C#32 = .ok (.encAdd .D 300) := by decide
theorem test_decode_encAdd_lowest : decode 0x90008000#32 = .ok (.encAdd .A (-32768)) := by decide
theorem test_decode_refuses_code_0 : decode 0x00000000#32 = .error .unusedCode := by decide
theorem test_decode_refuses_code_A : decode 0xA0000000#32 = .error .unusedCode := by decide
theorem test_decode_refuses_code_F : decode 0xF0000000#32 = .error .unusedCode := by decide
theorem test_decode_refuses_rsv : decode 0x10010000#32 = .error .reservedBits := by decide
theorem test_decode_refuses_tick_data : decode 0x20000001#32 = .error .dataBits := by decide
theorem test_decode_refuses_tick_axis : decode 0x24000000#32 = .error .axisBits := by decide
theorem test_decode_refuses_tel_data : decode 0x30000002#32 = .error .dataBits := by decide
theorem test_decode_refuses_rx_data : decode 0x40000100#32 = .error .dataBits := by decide
theorem test_decode_refuses_pos_data : decode 0x80000001#32 = .error .dataBits := by decide

/-- The host's numbering of a table row's word is the event word itself. -/
theorem test_decodeTableWord : decodeTableWord 32 0x9400FFFB = some (.encAdd .B (-5)) := by decide

/-- No two event rows of the table share a word: some bit both masks test differs. -/
theorem test_eventRows_disjoint :
    eventRows.Pairwise fun r q => r.value &&& (r.mask &&& q.mask) ≠ q.value &&& (r.mask &&& q.mask) := by decide

/-- A line of the trace syntax with a comment, and a quoted text. -/
theorem test_trace_line : traceLine "enc B -5 ; left".toList = some [.encAdd .B (-5)] := by decide

/-- The model's own choices of log 18: a last line without its NEWLINE is read, an explicit plus sign is not. -/
theorem test_trace_choices : traceProgram "init\ntick".toList = traceProgram "init\ntick\n".toList ∧
    traceLine "enc A +5".toList = none := by decide

theorem test_trace_text : traceLine "rxs \"!@!\"".toList = some traceRst := by decide

/-! ### Well-formedness: each check refuses an ill-formed term -/

theorem test_illFormed_encAdd_above : (Instr.encAdd .A 32768).wellFormed = false := by decide
theorem test_illFormed_encAdd_below : (Instr.encAdd .A (-32769)).wellFormed = false := by decide
theorem test_illFormed_ramp_target : (Instr.rampAdvance .A 128 true).wellFormed = false := by decide
theorem test_illFormed_ramp_target_below : (Instr.rampAdvance .A (-129) true).wellFormed = false := by decide
theorem test_illFormed_pid_setpoint : (Instr.pidStep .A 255 0).wellFormed = false := by decide
theorem test_illFormed_pid_setpoint_below : (Instr.pidStep .A (-257) 0).wellFormed = false := by decide
theorem test_illFormed_pid_measured : (Instr.pidStep .A 0 (2 ^ 31)).wellFormed = false := by decide
theorem test_illFormed_pid_measured_below : (Instr.pidStep .A 0 (-2 ^ 31 - 1)).wellFormed = false := by decide
theorem test_wellFormed_limits : [Instr.encAdd .A (-32768), .encAdd .D 32767, .rampAdvance .B (-128) true,
    .rampAdvance .B 127 false, .pidStep .C 254 (2 ^ 31 - 1), .pidStep .C (-256) (-2 ^ 31)].all Instr.wellFormed = true := by
  decide

/-! ### Reset -/

theorem test_reset_memory_wf : Memory.wf payloadLen State.reset.pl ∧ Memory.wf telemetryLen State.reset.txbuf := by decide
theorem test_reset_config_legal : configLegal State.reset.cfg = true := by decide

/-! ### The operations -/

/-- ENC-1. -/
theorem test_encAdd_wraps_down : got (exec (.encAdd .A (-5)) { State.reset with cnt := ⟨2, 0, 0, 0⟩ }) (·.cnt) =
    some ⟨0xFFFD, 0, 0, 0⟩ := by decide

/-- ENC-2. -/
theorem test_encAdd_wraps_up : got (exec (.encAdd .B 1) { State.reset with cnt := ⟨0, 0xFFFF, 0, 0⟩ }) (·.cnt) =
    some ⟨0, 0, 0, 0⟩ := by decide

/-- TRK-2. -/
theorem test_sample_truncates : got (exec (.sample .A)
      { State.reset with cnt := ⟨0xFFFB, 0, 0, 0⟩, axes := { State.reset.axes with a := { AxisState.zero with pos := 10#32 } } })
    (fun t => ((t.axis .A).lastDelta, (t.axis .A).pos, t.cnt.a, t.hist)) = some (-5, 9#32, 0, [.cntClr .A]) := by decide

/-- TRK-8. -/
theorem test_sample_position_wraps : got (exec (.sample .D)
      { State.reset with
        cnt := ⟨0, 0, 0, 0xFFFC⟩
        axes := { State.reset.axes with d := { AxisState.zero with pos := 0x80000000#32 } } })
    (fun t => (t.axis .D).pos.toInt) = some 2147483647 := by decide

/-- TRK-12, and the example of 40_encoder_tracker.md R144: the counters are left as they were. -/
theorem test_resetAll_zeroes : got (exec .resetAll { preset with cnt := ⟨0, 8, 0, 0⟩ }) (fun t => (positions t, t.cnt)) =
    some ([0, 0, 0, 0], ⟨0, 8, 0, 0⟩) := by decide

/-- TRK-13, with axis B at −3. -/
theorem test_posRead_emits : got (exec (.posRead .B) preset) (·.hist) = some [.pos .B (-3)] := by decide

/-- PID-3: −2.2 truncated to −2. -/
theorem test_pidStep_truncates : got (exec (.pidStep .A 0 1) State.reset)
    (fun t => ((t.axis .A).integ, (t.axis .A).prevErr, (t.axis .A).out)) = some (-1, -1, -2) := by decide

/-- PID-8: the integral clamps and the derivative uses the unclamped error. -/
theorem test_pidStep_clamps_integral : got (exec (.pidStep .A (-20) 0)
      { State.reset with axes := { State.reset.axes with a := { AxisState.zero with integ := -500, prevErr := -3 } } })
    (fun t => ((t.axis .A).integ, (t.axis .A).prevErr, (t.axis .A).out)) = some (-500, -20, -138) := by decide

/-- RAMP-6: the distance is one step exactly. -/
theorem test_rampAdvance_lands : got (exec (.rampAdvance .B 100 true)
      { State.reset with axes := { State.reset.axes with b := { AxisState.zero with ramp := 725 } } })
    (fun t => (t.axis .B).ramp) = some 1000 := by decide

/-- RAMP-8: down from 0, one step. -/
theorem test_rampAdvance_down : got (exec (.rampAdvance .A (-100) true) State.reset) (fun t => (t.axis .A).ramp) =
    some (-275) := by decide

/-- The example of 43_command_decoder.md R202. -/
theorem test_detStep_triggers : got (exec (.detStep 0x21#8) { preset with win1 := 0x21#8, win2 := 0x40#8 })
    (fun t => (positions t, t.win0, t.win1, t.win2)) = some ([0, 0, 0, 0], 0x00#8, 0x00#8, 0x00#8) := by decide

/-- DET-5, its last byte: no match. -/
theorem test_detStep_shifts : got (exec (.detStep 0x21#8) { preset with win0 := 0x21#8, win1 := 0x40#8, win2 := 0x40#8 })
    (fun t => (positions t, t.win0, t.win1, t.win2)) = some ([100, -3, 0, 7], 0x40#8, 0x40#8, 0x21#8) := by decide

/-- The example of 43_command_decoder.md R203. -/
theorem test_decStep_last_payload_byte : got (exec (.decStep 0xFF#8) { State.reset with decState := 1#2, plCnt := 8#4 })
    (fun t => (t.pl, t.plCnt, t.decState)) = some ([(8, 0xFF#8)], 9#4, 2#2) := by decide

/-- DEC-3, the byte after the payload: a 0x23 in the tail position is consumed. -/
theorem test_decStep_bad_tail : got (exec (.decStep 0x23#8) { State.reset with decState := 2#2, plCnt := 9#4 })
    (fun t => (t.commitIdx, t.plCnt, t.decState)) = some (0xF#4, 0#4, 0#2) := by decide

/-- The example of 43_command_decoder.md R200. -/
theorem test_rxByte_header : got (exec (.rxByte 0x23#8) State.reset) (fun t => (t.decState, t.plCnt, t.win2)) =
    some (1#2, 0#4, 0x23#8) := by decide

/-- DET-7, its last byte: one byte completes a trigger and starts the commit. -/
theorem test_rxByte_two_effects : got (exec (.rxByte 0x21#8)
      { preset with decState := 2#2, plCnt := 9#4, win1 := 0x21#8, win2 := 0x40#8 })
    (fun t => (positions t, t.commitIdx, t.win2)) = some ([0, 0, 0, 0], 0#4, 0x00#8) := by decide

/-- COMMIT-1, k = 1. -/
theorem test_commitStep_target : got (exec .commitStep (committing 1#4))
    (fun t => ((t.axis .B).target.toInt, (t.axis .A).target.toInt, t.commitIdx)) = some (-5, 0, 2#4) := by decide

/-- COMMIT-1, k = 8. -/
theorem test_commitStep_last : got (exec .commitStep (committing 8#4))
    (fun t => ((t.axis .D).bias.toInt, (t.axis .C).bias.toInt, t.commitIdx)) = some (-1, 0, 0xF#4) := by decide

/-- EW-23 and EW-24: not enabled, so no step. -/
theorem test_not_enabled : stop (exec .commitStep State.reset) = some .noCommitPending ∧
    stop (exec (.rxByte 0x41#8) (committing 3#4)) = some .rxNotReady := by decide

/-- The state of TLM-1. -/
def telemetry1 : State :=
  { State.reset with
    axes := ⟨{ AxisState.zero with target := 10#8, pos := 4#32, lastDelta := 9 },
      { AxisState.zero with target := BitVec.ofInt 8 (-5), pos := BitVec.ofInt 32 (-1) }, AxisState.zero,
      { AxisState.zero with target := 127#8, pos := 10#32 }⟩ }

/-- TLM-1, the whole frame. -/
theorem test_tlmAssemble_frame : got (exec .tlmAssemble telemetry1) (fun t => bytesOf t.txbuf 42) =
    some [0x23#8, 0x0A#8, 0x00#8, 0xFB#8, 0xFF#8, 0x00#8, 0x00#8, 0x7F#8, 0x00#8, 0x04#8, 0x00#8, 0x00#8, 0x00#8, 0xFF#8,
      0xFF#8, 0xFF#8, 0xFF#8, 0x00#8, 0x00#8, 0x00#8, 0x00#8, 0x0A#8, 0x00#8, 0x00#8, 0x00#8, 0x09#8, 0x00#8, 0x00#8,
      0x00#8, 0x00#8, 0x00#8, 0x00#8, 0x00#8, 0x00#8, 0x00#8, 0x00#8, 0x00#8, 0x00#8, 0x00#8, 0x00#8, 0x00#8, 0x21#8] := by
  decide

/-- TEL-1: one TX event of 42 bytes, and busy set. -/
theorem test_telTick_accepted : got (exec (.telTick true) telemetry1)
    (fun t => (t.busy, t.hist.map fun e => match e with
      | .tx f => f.length
      | .act _ _ _ _ | .cntClr _ | .pos _ _ => 0)) = some (true, [42]) := by decide

/-- TEL-2 and TEL-3: nothing is sent; a rejected frame stays in the buffer. -/
theorem test_telTick_dropped : got (exec (.telTick true) { telemetry1 with busy := true }) (fun t => (t.txbuf, t.hist)) =
      some ([], []) ∧
    got (exec (.telTick false) telemetry1) (fun t => (t.busy, t.hist, Memory.read t.txbuf 1)) =
      some (false, [], 0x0A#8) := by decide

/-- TEL-4 and TEL-6. -/
theorem test_txDone_clears : got (exec .txDone { State.reset with busy := true }) (·.busy) = some false ∧
    got (exec .txDone State.reset) (·.busy) = some false := by decide

/-- TEL-5. -/
theorem test_txErr_clears : got (exec .txErr { State.reset with busy := true }) (fun t => (t.busy, t.hist)) =
    some (false, []) := by decide

/-- TICK-1. -/
theorem test_ctrlTick_events : got (exec .ctrlTick
      { State.reset with axes := { State.reset.axes with a := { AxisState.zero with target := 10#8 } } })
    (fun t => ((t.axis .A).ramp, (t.axis .A).integ, t.hist)) =
    some (100, 10, [.cntClr .A, .cntClr .B, .cntClr .C, .cntClr .D, .act 22 0 0 0]) := by decide

/-- TICK-2. -/
theorem test_ctrlTick_all_axes : got (exec .ctrlTick
      { State.reset with
        cnt := ⟨0, 0, 3, 0⟩
        rampEn := true
        axes := ⟨{ AxisState.zero with target := 10#8 }, { AxisState.zero with target := BitVec.ofInt 8 (-10) },
          { AxisState.zero with bias := 5#8 }, { AxisState.zero with bias := BitVec.ofInt 8 (-5) }⟩ })
    (fun t => Axis.inOrder.map fun i => ((t.axis i).lastDelta, (t.axis i).pos, (t.axis i).ramp, (t.axis i).integ,
      (t.axis i).out)) =
    some [(0, 0#32, 100, 10, 22), (0, 0#32, -100, -10, -22), (3, 0#32, 0, 2, 4), (0, 0#32, 0, -5, -11)] := by decide

/-- The example of 45_control_tick.md R272. -/
theorem test_actuate_emits : got (exec .actuate
      { State.reset with axes := ⟨{ AxisState.zero with out := 22 }, AxisState.zero, { AxisState.zero with out := -3 },
        { AxisState.zero with out := 1000 }⟩ }) (·.hist) = some [.act 22 0 (-3) 1000] := by decide

/-- INIT-1 and TEL-9, from a state in the middle of a frame and of a transfer. -/
theorem test_init_clears : got (exec .init
      { preset with
        busy := true, decState := 1#2, plCnt := 3#4, pl := payloadF, txbuf := [(0, 0x23#8)], hist := [.pos .A 1],
        rampEn := true, commitIdx := 2#4, win2 := 0x21#8, cnt := ⟨1, 2, 3, 4⟩ })
    (fun t => { t with hist := [] }) = some State.reset := by decide

/-- One step takes one event word and runs it: EW-11 offered to the reset state. -/
theorem test_step_runs_word : got (step (State.reset.withFetchWord 32 0x9400FFFB)) (fun t => (t.cnt.b, t.input)) =
    some (0xFFFB, []) := by decide

/-- SC3 and SC4 of PID-5; SC5 of TEL-2. -/
theorem test_silent_conditions :
    silentConditions (.pidStep .A 500 0) State.reset = [.outputSaturation .A] ∧
    silentConditions (.pidStep .B 501 0) State.reset = [.integralSaturation .B, .outputSaturation .B] ∧
    silentConditions (.telTick true) { State.reset with busy := true } = [.transmitContention] := by decide

/-! ### Witnesses: for each statement with hypotheses, concrete values that meet all of them together -/

/-- The last two received bytes are 0x21 0x40. -/
def armed : State := { preset with win1 := 0x21#8, win2 := 0x40#8 }

/-- A word that decodes, for each event row. -/
theorem witness_decoded_words : [(0x10000000#32, Instr.init), (0x20000000#32, .ctrlTick), (0x30000001#32, .telTick true),
    (0x400000FF#32, .rxByte 0xFF#8), (0x50000000#32, .commitStep), (0x60000000#32, .txDone), (0x70000000#32, .txErr),
    (0x8C000000#32, .posRead .D), (0x90007FFF#32, .encAdd .A 32767)].all
    (fun r => decide (decode r.1 = .ok r.2) && eventRows.any (fun q => q.fits r.1 && eventRow r.2 == some q)) = true := by
  decide

theorem witness_DecodeEncodeRoundTrip : ∀ k ∈ [-32768, -1, 0, 32767],
    (Instr.encAdd .D k).isEvent = true ∧ (Instr.encAdd .D k).wellFormed = true := by decide

theorem witness_DecodedWordEncodesBack : decode 0x400000FF#32 = .ok (.rxByte 0xFF#8) ∧
    (Instr.pidStep .A 0 0).isEvent = false := by decide

/-- One word for each way of being refused, and the state that meets it. -/
theorem witness_RefusedEventWords : configLegal State.reset.cfg = true ∧
    (State.reset.withFetchWord 32 0xA0000000).input = 0xA0000000#32 :: [] ∧
    [0x00000000#32, 0xA0000000#32, 0xF0000000#32, 0x12000000#32, 0x10010000#32, 0x14000000#32, 0x78000000#32,
      0x20000001#32, 0x80008000#32, 0x30000002#32, 0x30008000#32, 0x40000100#32, 0x40008000#32].all
      (fun w => (decode w).toOption.isNone) = true := by decide

theorem witness_OpcodeTableDecides : decode 0x88000000#32 = .ok (.posRead .C) ∧
    eventRows.all (fun r => r.fits r.value) = true := by decide

theorem witness_StepRunsDecodedEvent : configLegal State.reset.cfg = true ∧
    (State.reset.withFetchWord 32 0x88000000).input = 0x88000000#32 :: [] ∧ decode 0x88000000#32 = .ok (.posRead .C) := by
  decide

theorem witness_IdleKeepsState : configLegal State.reset.cfg = true ∧ State.reset.input = [] := by decide

/-- Configurations on the two sides of each constraint. -/
theorem witness_IllegalConfigurationRefused :
    [{ Config.ref with cntW := 2 }, { Config.ref with cntW := 32 }, { Config.ref with posDiv := 1, scale := 1, res := 1 },
      { Config.ref with integralLimit := 0, outputLimit := 0, rampStep := 1 },
      { Config.ref with tickRate := some 2, telRate := some 1 }, { Config.ref with tickRate := some 1 }].all
        configLegal = true ∧
    [{ Config.ref with cntW := 1 }, { Config.ref with cntW := 33 }, { Config.ref with posDiv := 0 },
      { Config.ref with scale := 0 }, { Config.ref with integralLimit := -1 }, { Config.ref with outputLimit := -1 },
      { Config.ref with res := 0 }, { Config.ref with rampStep := 0 },
      { Config.ref with tickRate := some 1, telRate := some 1 }].all (fun c =>
        decide (refusal (step { State.reset with cfg := c }) = some .illegalConfig)) = true := by decide

theorem witness_SampleResult : 1 ≤ State.reset.cfg.cntW := by decide

theorem witness_PidStepResult : 0 ≤ State.reset.cfg.integralLimit ∧ 0 ≤ State.reset.cfg.outputLimit := by decide

theorem witness_RampAdvanceResult : 1 ≤ State.reset.cfg.rampStep := by decide

/-- Both clauses, and each of the three bytes missing. -/
theorem witness_DetStepResult : (armed.win1 = 0x21#8 ∧ armed.win2 = 0x40#8 ∧ (0x21#8 : Byte) = 0x21#8) ∧
    ¬ (armed.win1 = 0x21#8 ∧ armed.win2 = 0x40#8 ∧ (0x22#8 : Byte) = 0x21#8) ∧
    ¬ (preset.win1 = 0x21#8 ∧ preset.win2 = 0x40#8 ∧ (0x21#8 : Byte) = 0x21#8) := by decide

/-- The payload offset at the ends of its range, the tail state and the two codes of AWAIT_HEADER. -/
theorem witness_DecStepResult :
    (∀ n ∈ [0#4, 8#4], ({ State.reset with decState := 1#2, plCnt := n }).decState = 1#2 ∧ n.toNat < 9) ∧
    ({ State.reset with decState := 2#2 }).decState = 2#2 ∧ State.reset.decState = 0#2 ∧
    ({ State.reset with decState := 3#2 }).decState = 3#2 := by decide

/-- Ready, in AWAIT_HEADER and at the last payload byte. -/
theorem witness_RxByteResult :
    ∀ s ∈ [State.reset, { State.reset with decState := 1#2, plCnt := 8#4 }],
      s.commitIdx = 0xF#4 ∧ (s.decState = 1#2 → s.plCnt.toNat < 9) := by decide

theorem witness_CommitStepResult : ∀ k ∈ [0#4, 3#4, 4#4, 5#4, 8#4], (committing k).commitIdx.toNat ≤ 8 := by decide

theorem witness_TelTickResult : State.reset.busy = false ∧ ({ State.reset with busy := true }).busy = true := by decide

theorem witness_CtrlTickResult : configLegal State.reset.cfg = true := by decide

/-- A busy byte input, a missing commit, and a state with legal control codes in which both hold of one operation each. -/
theorem witness_StuckEvents : (committing 8#4).commitIdx ≠ 0xF#4 ∧ State.reset.commitIdx = 0xF#4 ∧
    DecoderInv State.reset ∧ DecoderInv (committing 8#4) :=
  ⟨by decide, by decide, ⟨by decide, by decide⟩, ⟨by decide, by decide⟩⟩

/-- The control codes at the ends of their ranges. -/
theorem witness_UnreachedControlCodes :
    (∀ n ∈ [9#4, 15#4], ({ State.reset with decState := 1#2, plCnt := n }).decState = 1#2 ∧ 9 ≤ n.toNat) ∧
    ∀ k ∈ [9#4, 14#4], 9 ≤ (committing k).commitIdx.toNat ∧ (committing k).commitIdx.toNat ≤ 14 := by decide

/-- A state with movement and a control tick waiting. -/
def ticking : State := { State.reset with input := [0x20000000#32], cnt := ⟨5, 0xFFFF, 0, 0x8000⟩ }

theorem witness_StepKeepsInvariant : Inv ticking ∧ (step ticking matches .next _) := by
  refine ⟨⟨by decide, fun i => by cases i <;> decide, fun i => ?_, ⟨by decide, by decide⟩, by decide, by decide, ?_⟩, by
    decide⟩
  · cases i <;> exact ⟨by decide, by decide, by decide, by decide, by decide⟩
  · simp [ticking, State.reset]

/-- INIT from a state whose elements break every range but whose history is possible. -/
theorem witness_InitEstablishesInvariant :
    configLegal ({ State.reset with plCnt := 15#4, hist := [.cntClr .A] }).cfg = true ∧
    ∀ e ∈ ({ State.reset with plCnt := 15#4, hist := [.cntClr .A] }).hist, e.Ok Config.ref := by
  refine ⟨by decide, fun e he => ?_⟩
  simp only [List.mem_cons, List.not_mem_nil, or_false] at he
  subst he
  exact True.intro

theorem witness_SampleAliasRange : configLegal State.reset.cfg = true ∧ State.reset.cnt.get .A = 0 ∧
    ([32767, 1] : List Int).sum = 2 ^ (State.reset.cfg.cntW - 1) := by decide

theorem witness_PositionSumsQuotients : configLegal State.reset.cfg = true ∧ State.reset.cnt.get .A = 0 ∧
    (State.reset.axis .A).pos = 0#32 := by decide

theorem witness_ResetAgainstTick : configLegal armed.cfg = true ∧ armed.commitIdx = 0xF#4 ∧
    (armed.decState = 1#2 → armed.plCnt.toNat < 9) ∧ armed.win1 = 0x21#8 ∧ armed.win2 = 0x40#8 := by decide

/-- Two states that differ in the position and agree in what the engine reads. -/
theorem witness_PidBounds : configLegal State.reset.cfg = true ∧ preset.cfg = State.reset.cfg ∧
    (preset.axis .A).integ = (State.reset.axis .A).integ ∧ (preset.axis .A).prevErr = (State.reset.axis .A).prevErr := by
  decide

theorem witness_PidZeroError : configLegal State.reset.cfg = true ∧ (State.reset.axis .A).integ = 0 ∧
    (State.reset.axis .A).prevErr = 0 ∧ ([7, -3] : List Int) ≠ [] := by decide

/-- PID-C, with e = 100 and with e = −100. -/
theorem witness_PidConstantError : configLegal State.reset.cfg = true ∧ (State.reset.axis .A).integ = 0 ∧
    (∀ p ∈ ([(100, 0), (120, 20)] : List (Int × Int)), p.1 - p.2 = 100) ∧
    ∀ p ∈ ([(-100, 0), (0, 100)] : List (Int × Int)), p.1 - p.2 = -100 := by decide

theorem witness_UnsaturatedPid : configLegal State.reset.cfg = true ∧
    silentConditions (.pidStep .A 10 0) State.reset = [] := by decide

theorem witness_RampReachesGoal : configLegal State.reset.cfg = true ∧ (State.reset.axis .A).ramp ≤ 100 * State.reset.cfg.res ∧
    -100 * State.reset.cfg.res ≤ (State.reset.axis .A).ramp := by decide

theorem witness_NativeSetpointMonotone : configLegal State.reset.cfg = true ∧ (4 : Nat) ≤ 5 ∧
    State.reset.cfg = Config.ref ∧ (State.reset.axis .A).ramp = 0 ∧ (0 : Int) ≤ 100 * State.reset.cfg.res ∧
    -100 * State.reset.cfg.res ≤ 0 := by decide

theorem witness_FrameCommitsOnce : (List.replicate 9 (0x23#8 : Byte)).length = 9 ∧ State.reset.decState = 0#2 ∧
    State.reset.commitIdx = 0xF#4 ∧ (exec .ctrlTick State.reset matches .next _) ∧ Instr.ctrlTick ≠ .commitStep ∧
    Instr.ctrlTick ≠ .init := by decide

theorem witness_CmdPseudoInstruction :
    (∀ i : Axis, InSigned 8 ((⟨-128, 127, 0, -1⟩ : PerAxis Int).get i) ∧
      InSigned 8 ((⟨127, -128, 1, 0⟩ : PerAxis Int).get i)) ∧ State.reset.decState = 0#2 ∧
    State.reset.commitIdx = 0xF#4 := by
  refine ⟨fun i => ?_, by decide, by decide⟩
  cases i <;> decide

theorem witness_TornCommit : (committing 0#4).commitIdx = 0#4 ∧ (0 : Nat) ≤ 9 ∧ (9 : Nat) ≤ 9 := by decide

theorem witness_ReadyWithinNineCommits :
    ∀ k ∈ [0#4, 8#4], (committing k).commitIdx.toNat ≤ 8 ∧ 0 < 9 - (committing k).commitIdx.toNat := by decide

/-- The first clause from a state that differs outside the decoder, the second from two decoder states, the third with a
control tick and a DEC_STEP between the bytes. -/
theorem witness_DetectorIndependence :
    (preset.decoderView = State.reset.decoderView ∧
      (runInstrs ([some 0x23#8, some 0x0A#8].map fun e => e.elim .commitStep .rxByte) State.reset matches .next _)) ∧
    (({ State.reset with decState := 2#2 }).win0 = State.reset.win0 ∧
      ({ State.reset with decState := 2#2 }).win1 = State.reset.win1 ∧
      ({ State.reset with decState := 2#2 }).win2 = State.reset.win2 ∧
      (runInstrs ([0x21#8].map .rxByte) State.reset matches .next _) ∧
      (runInstrs ([0x20#8].map .rxByte) { State.reset with decState := 2#2 } matches .next _)) ∧
    ¬ (preset.win1 = 0x21#8 ∧ preset.win2 = 0x40#8) ∧
    (runInstrs ([.rxByte 0x21#8] ++ [.ctrlTick] ++ [.rxByte 0x40#8] ++ [.decStep 0x00#8] ++ [.rxByte 0x21#8]) preset
      matches .next _) := by decide

theorem witness_DetectorIndependence_between : ∀ i ∈ [Instr.ctrlTick] ++ [.decStep 0x00#8],
    i ≠ .init ∧ ∀ b, i ≠ .rxByte b ∧ i ≠ .detStep b := by simp

theorem witness_NoTriggerNoReset : ¬ HoldsTrigger (preset.win1 :: preset.win2 :: [0x21#8, 0x40#8, 0x40#8]) ∧
    (runInstrs ([0x21#8, 0x40#8, 0x40#8].map .rxByte) preset matches .next _) := by
  refine ⟨?_, by decide⟩
  unfold HoldsTrigger
  decide

/-- The frame H of program P5, and one whose byte 9 is the misaligned header. -/
theorem witness_MisalignedHeaderLockout :
    (∀ r ∈ [((0x23#8 :: 0x23#8 :: List.replicate 8 0x00#8 ++ [0x21#8] : List Byte), 1),
        ((0x23#8 :: List.replicate 8 0x00#8 ++ [0x23#8, 0x21#8] : List Byte), 9)],
      r.1.length = 11 ∧ r.1[0]? = some 0x23#8 ∧ r.1[10]? = some 0x21#8 ∧ 1 ≤ r.2 ∧ r.2 ≤ 9 ∧ r.1[r.2]? = some 0x23#8 ∧
      r.1[r.2 - 1]? ≠ some 0x21#8) ∧ State.reset.decState = 0#2 ∧ State.reset.commitIdx = 0xF#4 := by decide

theorem witness_TelemetryRoundTrip : configLegal telemetry1.cfg = true ∧
    (∀ i : Axis, InSigned telemetry1.cfg.cntW (telemetry1.axis i).lastDelta) ∧ telemetry1.busy = false := by
  refine ⟨by decide, fun i => ?_, by decide⟩
  cases i <;> decide

theorem witness_AtMostOneTransfer : (∀ i ∈ [Instr.telTick true, .ctrlTick, .telTick true], clearsBusy i = false) ∧
    (runInstrs [.telTick true, .ctrlTick, .telTick true] State.reset matches .next _) ∧
    [Instr.telTick true, .ctrlTick, .telTick true].head? = some (.telTick true) ∧ State.reset.busy = false := by decide

theorem witness_BusyTransitions : State.reset.busy = false ∧ got (exec (.telTick true) State.reset) (·.busy) = some true ∧
    ∀ i ∈ [Instr.txDone, .txErr, .init], got (exec i { State.reset with busy := true }) (·.busy) = some false := by decide

theorem witness_TxbufKeptWhileBusy : (exec (.telTick true) { telemetry1 with busy := true } matches .next _) ∧
    (Instr.telTick true).isEvent = true ∧ Instr.telTick true ≠ .init ∧ ({ telemetry1 with busy := true }).busy = true := by
  decide

/-- Every event completes in one of two states. -/
theorem witness_HistoryOfEachEvent : (∀ i ∈ [Instr.init, .ctrlTick, .telTick true, .telTick false, .posRead .D,
      .rxByte 0x21#8, .txDone, .txErr, .encAdd .A 1], i.isEvent = true ∧ (got (exec i State.reset) (fun _ => ())).isSome) ∧
    (got (exec .commitStep (committing 0#4)) (fun _ => ())).isSome := by decide

/-- Every operation but INIT and CTRL_TICK completes in one of two states. -/
theorem witness_AxisStateWriters : (∀ i ∈ [Instr.telTick true, .rxByte 0x21#8, .txDone, .txErr, .posRead .A, .encAdd .A 1,
      .sample .A, .resetAll, .rampAdvance .A 1 true, .pidStep .A 1 0, .detStep 0x21#8, .decStep 0x21#8, .tlmAssemble,
      .actuate], i ≠ .init ∧ i ≠ .ctrlTick ∧ (got (exec i State.reset) (fun _ => ())).isSome) ∧
    (got (exec .commitStep (committing 0#4)) (fun _ => ())).isSome := by decide

/-- A COMMIT_STEP is no RX_BYTE, no DET_STEP and no DEC_STEP; a CTRL_TICK is no COMMIT_STEP either. -/
theorem witness_DecoderWriters : (exec .ctrlTick State.reset matches .next _) ∧
    (exec .commitStep (committing 0#4) matches .next _) ∧
    ∀ i ∈ [Instr.ctrlTick, .commitStep], i ≠ .init ∧ ∀ b, i ≠ .rxByte b ∧ i ≠ .decStep b ∧ i ≠ .detStep b :=
  ⟨by decide, by decide, by simp⟩

theorem witness_ConfigAndInputKept : (exec .init ticking matches .next _) ∧ ticking.input ≠ [] := by decide

/-- Two states that agree on axis A and differ on the others. -/
theorem witness_AxesDoNotInterfere :
    ({ preset with axes := { preset.axes with b := AxisState.zero } }).cfg = preset.cfg ∧
    ({ preset with axes := { preset.axes with b := AxisState.zero } }).rampEn = preset.rampEn ∧
    ({ preset with axes := { preset.axes with b := AxisState.zero } }).axis .A = preset.axis .A ∧
    ({ preset with axes := { preset.axes with b := AxisState.zero } }).cnt.get .A = preset.cnt.get .A := by decide

theorem witness_TickOrderIrrelevant : ([.D, .B, .A, .C] : List Axis).Perm Axis.inOrder := by decide

end Sys2Proof.Tests
end

section
/-! Proofs for 00_scope.md: which configurations the boundary refuses (R8), and what every completed operation does to the
fields no rule of its own names: the configuration and the waiting events stay (R7, R110), and the output history only
grows (R17, R48). -/

namespace Sys2Proof.Machine

open Sys2Proof

/-! ### The refusal of an illegal configuration -/

theorem outcomeOf_next {r : Except Fault State} {t : State} (h : outcomeOf r = .next t) : r = .ok t := by
  cases r <;> cases h
  rfl

theorem outcomeOf_ne_refused (r : Except Fault State) (e : Refusal) : outcomeOf r ≠ .refused e := by
  cases r <;> nofun

/-- The refusals are the boundary's alone (60_exceptions.md R303): all seventeen operations have a meaning. -/
theorem exec_ne_refused (i : Instr) (s : State) (e : Refusal) : exec i s ≠ .refused e := by
  cases i with
  | telTick acc =>
    change execTelTick acc s ≠ _
    obtain ⟨_, h⟩ | ⟨_, _, h⟩ | ⟨_, _, h⟩ := execTelTick_cases acc s <;> rw [h] <;> nofun
  | rxByte b =>
    change execRxByte b s ≠ _
    unfold execRxByte
    split
    · exact outcomeOf_ne_refused _ e
    · nofun
  | commitStep =>
    change execCommitStep s ≠ _
    unfold execCommitStep
    split <;> nofun
  | decStep b => exact outcomeOf_ne_refused _ e
  | init | ctrlTick | txDone | txErr | posRead | encAdd => nofun
  | sample | resetAll | rampAdvance | pidStep | detStep | tlmAssemble | actuate => nofun

theorem step_of_illegal {s : State} (h : configLegal s.cfg = false) : step s = .refused .illegalConfig := by
  simp [step, h]

/-- In a legal configuration a refusal can only be that of the event word. -/
theorem step_ne_illegalConfig {s : State} (h : configLegal s.cfg = true) : step s ≠ .refused .illegalConfig := by
  unfold step
  rw [if_pos h]
  split
  · nofun
  · split
    · nofun
    · exact exec_ne_refused _ _ _

theorem step_illegalConfig_iff (s : State) : step s = .refused .illegalConfig ↔ ¬ configLegal s.cfg = true :=
  ⟨fun hr hc => step_ne_illegalConfig hc hr, fun hc => step_of_illegal (by simpa using hc)⟩

/-- Settles O9: `step` refuses exactly when the legality test fails, and the test is R8's list. -/
theorem illegalConfigurationRefused : Obligations.IllegalConfigurationRefused := by
  intro s
  rw [step_illegalConfig_iff, configLegal_iff, ratesLegal_iff]

/-! ### What every completed operation keeps and appends -/

/-- The output events an operation appends when it takes `s` to `t` (00_scope.md R17). A tick's order is log 17. -/
def appendedEvents (i : Instr) (s t : State) : List OutEvent :=
  match i with
  | .init => [.cntClr .A, .cntClr .B, .cntClr .C, .cntClr .D]
  | .ctrlTick => [.cntClr .A, .cntClr .B, .cntClr .C, .cntClr .D,
      .act (t.axis .A).out (t.axis .B).out (t.axis .C).out (t.axis .D).out]
  | .telTick acc => if acc = true ∧ s.busy = false then [.tx (bytesOf t.txbuf 42)] else []
  | .posRead x => [.pos x (s.axis x).pos.toInt]
  | .sample x => [.cntClr x]
  | .actuate => [.act (s.axis .A).out (s.axis .B).out (s.axis .C).out (s.axis .D).out]
  | .rxByte _ | .commitStep | .txDone | .txErr | .encAdd _ _ => []
  | .resetAll | .rampAdvance _ _ _ | .pidStep _ _ _ | .detStep _ | .decStep _ | .tlmAssemble => []

/-- `t` has the configuration and the waiting events of `s`, and its history is that of `s` with `new` after it. -/
structure Appends (new : List OutEvent) (s t : State) : Prop where
  cfg : t.cfg = s.cfg
  input : t.input = s.input
  hist : t.hist = s.hist ++ new

theorem Appends.nil {s t : State} (hc : t.cfg = s.cfg) (hi : t.input = s.input) (hh : t.hist = s.hist) :
    Appends [] s t :=
  ⟨hc, hi, hh.trans (List.append_nil _).symm⟩

theorem initialise_appends (s : State) :
    Appends [.cntClr .A, .cntClr .B, .cntClr .C, .cntClr .D] s (initialise s) := by
  rw [initialise_eq]
  exact ⟨rfl, rfl, rfl⟩

theorem execCtrlTick_appends {s t : State} (h : execCtrlTick s = .next t) :
    Appends (appendedEvents .ctrlTick s t) s t := by
  rw [execCtrlTick_eq] at h
  cases h
  exact ⟨rfl, rfl, rfl⟩

/-- The three ways of TEL_TICK (44_telemetry.md R241): busy, accepted, rejected. -/
theorem execTelTick_appends {acc : Bool} {s t : State} (h : execTelTick acc s = .next t) :
    Appends (appendedEvents (.telTick acc) s t) s t := by
  obtain ⟨hbusy, e⟩ | ⟨hbusy, rfl, e⟩ | ⟨hbusy, rfl, e⟩ := execTelTick_cases acc s <;> rw [e] at h <;> cases h <;>
    simp only [appendedEvents, hbusy, Bool.true_eq_false, and_false, if_false]
  · exact .nil rfl rfl rfl
  · exact ⟨rfl, rfl, rfl⟩
  · exact .nil rfl rfl rfl

theorem execRxByte_appends {b : Byte} {s t : State} (h : execRxByte b s = .next t) : Appends [] s t := by
  obtain ⟨hcfg, hinput, _, _, _, _, hhist, _⟩ := execRxByte_frame h
  exact .nil hcfg hinput hhist

theorem execCommitStep_appends {s t : State} (h : execCommitStep s = .next t) : Appends [] s t := by
  obtain ⟨hcfg, hinput, _, _, _, _, _, _, _, _, _, hhist, _⟩ := execCommitStep_frame h
  exact .nil hcfg hinput hhist

theorem sampleAxis_appends (i : Axis) (s : State) : Appends [.cntClr i] s (sampleAxis i s).2 := by
  rw [sampleAxis_eq]
  exact ⟨rfl, rfl, rfl⟩

theorem rampAxis_appends (i : Axis) (g : Int) (en : Bool) (s : State) : Appends [] s (rampAxis i g en s).2 := by
  rw [rampAxis_eq]
  exact .nil rfl rfl rfl

theorem pidAxis_appends (i : Axis) (sp meas : Int) (s : State) : Appends [] s (pidAxis i sp meas s).2 := by
  rw [pidAxis_eq]
  exact .nil rfl rfl rfl

theorem detectByte_appends (b : Byte) (s : State) : Appends [] s (detectByte b s) := by
  obtain ⟨hcfg, hinput, _, _, _, _, _, _, _, _, hhist⟩ := detectByte_frame b s
  exact .nil hcfg hinput hhist

theorem decodeByte_appends {b : Byte} {s t : State} (h : decodeByte b s = .ok t) : Appends [] s t := by
  obtain ⟨_, hcfg, _, _, _, _, _, hinput, _, _, hhist⟩ := decodeByte_frame h
  exact .nil hcfg hinput hhist

/-- Every completed operation, internal ones included: configuration and input are kept, and the history grows by
`appendedEvents`. -/
theorem exec_appends {i : Instr} {s t : State} (h : exec i s = .next t) : Appends (appendedEvents i s t) s t := by
  cases i with
  | init => cases h; exact initialise_appends s
  | ctrlTick => exact execCtrlTick_appends h
  | telTick acc => exact execTelTick_appends h
  | rxByte b => exact execRxByte_appends h
  | commitStep => exact execCommitStep_appends h
  | posRead x => cases h; exact ⟨rfl, rfl, rfl⟩
  | txDone | txErr | encAdd x k => cases h; exact .nil rfl rfl rfl
  | sample x => cases h; exact sampleAxis_appends x s
  | rampAdvance x g en => cases h; exact rampAxis_appends x g en s
  | pidStep x sp meas => cases h; exact pidAxis_appends x sp meas s
  | detStep b => cases h; exact detectByte_appends b s
  | decStep b => exact decodeByte_appends (outcomeOf_next h)
  | actuate => cases h; exact ⟨rfl, rfl, rfl⟩
  | resetAll | tlmAssemble => cases h; exact .nil rfl rfl rfl

/-- Settles O53: the events are `appendedEvents`, read off for each event; the internal operations are not asked for. -/
theorem historyOfEachEvent : Obligations.HistoryOfEachEvent := by
  intro i s t _ h
  refine ⟨appendedEvents i s t, (exec_appends h).hist, ?init, ?ctrlTick, ?telTick, ?posRead, ?others⟩
  case init => rintro rfl; rfl
  case ctrlTick => rintro rfl; rfl
  case telTick => rintro acc rfl; rfl
  case posRead => rintro x rfl; rfl
  case others => rintro (⟨b, rfl⟩ | rfl | rfl | rfl | ⟨x, k, rfl⟩) <;> rfl

/-- Settles O56. -/
theorem configAndInputKept : Obligations.ConfigAndInputKept :=
  fun _ _ _ h => ⟨(exec_appends h).cfg, (exec_appends h).input⟩

end Sys2Proof.Machine
end

section
/-! Proofs for 10_state.md: what each operation does to every state element, once for all seventeen (R31 to R47, R54);
who writes it follows (O51, O54, O55), and so does that every step keeps the invariant (O30). -/

namespace Sys2Proof.Machine

open Sys2Proof

/-- TEL_TICK writes `txbuf`, `busy` and the history only (44_telemetry.md R241). -/
theorem execTelTick_frame {acc : Bool} {s t : State} (h : execTelTick acc s = .next t) :
    t = { s with txbuf := t.txbuf, busy := t.busy, hist := t.hist } := by
  obtain ⟨_, e⟩ | ⟨_, _, e⟩ | ⟨_, _, e⟩ := execTelTick_cases acc s <;> rw [e] at h <;> cases h <;> rfl

/-! ### The counters -/

/-- The counters after an operation (10_state.md R32). -/
def cntAfter (i : Instr) (s : State) : PerAxis Nat :=
  match i with
  | .init | .ctrlTick => PerAxis.all 0
  | .encAdd x k => s.cnt.set x (counterValue s.cfg.cntW ((s.cnt.get x : Int) + k))
  | .sample x => s.cnt.set x 0
  | .telTick _ | .rxByte _ | .commitStep | .txDone | .txErr | .posRead _ => s.cnt
  | .resetAll | .rampAdvance _ _ _ | .pidStep _ _ _ | .detStep _ | .decStep _ | .tlmAssemble | .actuate => s.cnt

theorem exec_cnt {i : Instr} {s t : State} (h : exec i s = .next t) : t.cnt = cntAfter i s := by
  cases i with
  | init => cases h; rw [initialise_eq]; rfl
  | ctrlTick => rw [exec, execCtrlTick_eq] at h; cases h; rfl
  | telTick acc => rw [execTelTick_frame h]; rfl
  | rxByte b =>
    obtain ⟨_, _, hcnt, _⟩ := execRxByte_frame h
    exact hcnt
  | commitStep =>
    obtain ⟨_, _, hcnt, _⟩ := execCommitStep_frame h
    exact hcnt
  | detStep b =>
    cases h
    obtain ⟨_, _, hcnt, _⟩ := detectByte_frame b s
    exact hcnt
  | decStep b =>
    obtain ⟨_, _, hcnt, _⟩ := decodeByte_frame (outcomeOf_next h)
    exact hcnt
  | txDone | txErr | posRead | encAdd => cases h; rfl
  | sample | resetAll | rampAdvance | pidStep | tlmAssemble | actuate => cases h; rfl

/-- The counters fit CNT_W bits after every operation, internal ones included. -/
theorem cntAfter_lt (i : Instr) {s : State} (hs : ∀ x, s.cnt.get x < 2 ^ s.cfg.cntW) (x : Axis) :
    (cntAfter i s).get x < 2 ^ s.cfg.cntW := by
  cases i with
  | init | ctrlTick => simp [cntAfter]
  | encAdd y k =>
    simp only [cntAfter, PerAxis.get_set]
    split
    · exact counterValue_lt _ _
    · exact hs x
  | sample y =>
    simp only [cntAfter, PerAxis.get_set]
    split
    · positivity
    · exact hs x
  | telTick | rxByte | commitStep | txDone | txErr | posRead => exact hs x
  | resetAll | rampAdvance | pidStep | detStep | decStep | tlmAssemble | actuate => exact hs x

/-! ### The per-axis bank -/

/-- What an operation may make of the record `a` of an axis (10_state.md R31, R33 to R39): the elements it does not name
here it keeps. -/
def RecordStep (c : Config) (i : Instr) (a a' : AxisState) : Prop :=
  match i with
  | .init => a' = AxisState.zero
  | .ctrlTick => ∃ x en cnt, a' = tickRecord c x en cnt a
  | .sample _ => ∃ d p, a' = { a with lastDelta := d, pos := p }
  | .resetAll | .rxByte _ | .detStep _ => ∃ p, a' = { a with pos := p }
  | .rampAdvance _ _ _ => ∃ r, a' = { a with ramp := r }
  | .pidStep _ _ _ => ∃ g o e, a' = { a with integ := g, out := o, prevErr := e }
  | .commitStep => ∃ target bias, a' = { a with target := target, bias := bias }
  | .telTick _ | .txDone | .txErr | .posRead _ | .encAdd _ _ | .decStep _ | .tlmAssemble | .actuate => a' = a

/-- The write of one element of a bank relates every element to itself before, if it does so for that one and what is
kept is related to itself. -/
theorem rel_get_set {α : Type} {R : α → α → Prop} (hrefl : ∀ a, R a a) {p : PerAxis α} {i : Axis} {v : α}
    (hv : R (p.get i) v) (x : Axis) : R (p.get x) ((p.set i v).get x) := by
  rw [PerAxis.get_set]
  split
  · subst x; exact hv
  · exact hrefl _

/-- DET_STEP and RX_BYTE zero the position of an axis or keep its record. -/
theorem exists_pos_of_ite (p : Prop) [Decidable p] (a : AxisState) :
    ∃ v, (if p then { a with pos := 0#32 } else a) = { a with pos := v } := by
  split
  · exact ⟨_, rfl⟩
  · exact ⟨a.pos, rfl⟩

theorem exec_record {i : Instr} {s t : State} (h : exec i s = .next t) (x : Axis) :
    RecordStep s.cfg i (s.axis x) (t.axis x) := by
  cases i with
  | init => cases h; rw [initialise_eq]; exact PerAxis.get_all _ x
  | ctrlTick =>
    rw [exec, execCtrlTick_eq] at h
    cases h
    exact ⟨x, s.rampEn, s.cnt.get x, by cases x <;> rfl⟩
  | sample y =>
    cases h
    rw [sampleAxis_eq]
    exact rel_get_set (R := RecordStep s.cfg (.sample y)) (fun _ => ⟨_, _, rfl⟩) ⟨_, _, rfl⟩ x
  | rampAdvance y g en =>
    cases h
    rw [rampAxis_eq]
    exact rel_get_set (R := RecordStep s.cfg (.rampAdvance y g en)) (fun _ => ⟨_, rfl⟩) ⟨_, rfl⟩ x
  | pidStep y sp meas =>
    cases h
    rw [pidAxis_eq]
    exact rel_get_set (R := RecordStep s.cfg (.pidStep y sp meas)) (fun _ => ⟨_, _, _, rfl⟩) ⟨_, _, _, rfl⟩ x
  | resetAll => cases h; exact ⟨_, zeroPositions_axis s x⟩
  | rxByte b =>
    obtain ⟨_, _, _, _, _, _, _, haxis⟩ := execRxByte_frame h
    rw [haxis]
    exact exists_pos_of_ite _ _
  | detStep b =>
    cases h
    rw [detectByte_axis]
    exact exists_pos_of_ite _ _
  | commitStep =>
    obtain ⟨_, _, _, _, _, _, _, _, _, _, _, _, haxis⟩ := execCommitStep_frame h
    exact haxis x
  | telTick acc => rw [execTelTick_frame h]; rfl
  | decStep b =>
    obtain ⟨haxes, _⟩ := decodeByte_frame (outcomeOf_next h)
    exact congrArg (PerAxis.get · x) haxes
  | txDone | txErr | posRead | encAdd | tlmAssemble | actuate => cases h; rfl

/-- Settles O54, from `exec_record` and `exec_cnt`: each operation names the elements it writes. -/
theorem axisStateWriters : Obligations.AxisStateWriters := by
  intro i s t x h hinit htick
  have hrec := exec_record h x
  have hcnt := exec_cnt h
  cases i with
  | init => exact absurd rfl hinit
  | ctrlTick => exact absurd rfl htick
  | sample y =>
    obtain ⟨d, p, hrec⟩ := hrec
    simp [hrec]
  | encAdd y k =>
    change t.axis x = s.axis x at hrec
    simp [hrec]
  | pidStep y sp meas =>
    obtain ⟨g, o, e, hrec⟩ := hrec
    simp [hrec, hcnt, cntAfter]
  | rampAdvance y g en =>
    obtain ⟨r, hrec⟩ := hrec
    simp [hrec, hcnt, cntAfter]
  | resetAll | rxByte | detStep =>
    obtain ⟨p, hrec⟩ := hrec
    simp [hrec, hcnt, cntAfter]
  | commitStep =>
    obtain ⟨target, bias, hrec⟩ := hrec
    simp [hrec, hcnt, cntAfter]
  | telTick | txDone | txErr | posRead | decStep | tlmAssemble | actuate =>
    change t.axis x = s.axis x at hrec
    simp [hrec, hcnt, cntAfter]

/-! ### The decoder, the commit index and the window -/

/-- `t` has the decoder elements, the payload and the commit index of `s` (10_state.md R41 to R44). -/
structure SameDecoder (s t : State) : Prop where
  decState : t.decState = s.decState
  plCnt : t.plCnt = s.plCnt
  pl : t.pl = s.pl
  commitIdx : t.commitIdx = s.commitIdx

/-- `t` has the detector window of `s` (10_state.md R45). -/
structure SameWindow (s t : State) : Prop where
  win0 : t.win0 = s.win0
  win1 : t.win1 = s.win1
  win2 : t.win2 = s.win2

/-- The operations of the receive side, and INIT. -/
def receives (i : Instr) : Bool :=
  match i with
  | .init | .rxByte _ | .commitStep | .detStep _ | .decStep _ => true
  | .ctrlTick | .telTick _ | .txDone | .txErr | .posRead _ | .encAdd _ _ => false
  | .sample _ | .resetAll | .rampAdvance _ _ _ | .pidStep _ _ _ | .tlmAssemble | .actuate => false

theorem exec_sameReceiver {i : Instr} {s t : State} (hi : receives i = false) (h : exec i s = .next t) :
    SameDecoder s t ∧ SameWindow s t := by
  cases i with
  | init | rxByte | commitStep | detStep | decStep => cases hi
  | ctrlTick =>
    rw [exec, execCtrlTick_eq] at h
    cases h
    exact ⟨⟨rfl, rfl, rfl, rfl⟩, ⟨rfl, rfl, rfl⟩⟩
  | telTick acc =>
    rw [execTelTick_frame h]
    exact ⟨⟨rfl, rfl, rfl, rfl⟩, ⟨rfl, rfl, rfl⟩⟩
  | txDone | txErr | posRead | encAdd => cases h; exact ⟨⟨rfl, rfl, rfl, rfl⟩, ⟨rfl, rfl, rfl⟩⟩
  | sample | resetAll | rampAdvance | pidStep | tlmAssemble | actuate =>
    cases h; exact ⟨⟨rfl, rfl, rfl, rfl⟩, ⟨rfl, rfl, rfl⟩⟩

theorem detectByte_sameDecoder (b : Byte) (s : State) : SameDecoder s (detectByte b s) := by
  obtain ⟨_, _, _, _, hdec, hcnt, hpl, hidx, _⟩ := detectByte_frame b s
  exact ⟨hdec, hcnt, hpl, hidx⟩

theorem decodeByte_sameWindow {b : Byte} {s t : State} (h : decodeByte b s = .ok t) : SameWindow s t := by
  obtain ⟨_, _, _, _, h0, h1, h2, _⟩ := decodeByte_frame h
  exact ⟨h0, h1, h2⟩

/-- Settles O55: of the operations asked for, COMMIT_STEP, DET_STEP and DEC_STEP alone belong to the receive side. -/
theorem decoderWriters : Obligations.DecoderWriters := by
  intro i s t h hinit hrx
  cases i with
  | init => exact absurd rfl hinit
  | rxByte b => exact absurd rfl (hrx b)
  | commitStep =>
    obtain ⟨_, _, _, hdec, hcnt, hpl, h0, h1, h2, _⟩ := execCommitStep_frame h
    exact ⟨fun _ => ⟨hdec, hcnt, fun a => by rw [hpl]⟩, fun _ hne => absurd rfl hne, fun _ => ⟨h0, h1, h2⟩⟩
  | detStep b =>
    cases h
    obtain ⟨hdec, hcnt, hpl, hidx⟩ := detectByte_sameDecoder b s
    exact ⟨fun _ => ⟨hdec, hcnt, fun a => by rw [hpl]⟩, fun _ _ => hidx, fun hne => absurd rfl (hne b)⟩
  | decStep b =>
    obtain ⟨h0, h1, h2⟩ := decodeByte_sameWindow (outcomeOf_next h)
    exact ⟨fun hne => absurd rfl (hne b), fun hne => absurd rfl (hne b), fun _ => ⟨h0, h1, h2⟩⟩
  | ctrlTick | telTick | txDone | txErr | posRead | encAdd
  | sample | resetAll | rampAdvance | pidStep | tlmAssemble | actuate =>
    obtain ⟨⟨hdec, hcnt, hpl, hidx⟩, ⟨h0, h1, h2⟩⟩ := exec_sameReceiver rfl h
    exact ⟨fun _ => ⟨hdec, hcnt, fun a => by rw [hpl]⟩, fun _ _ => hidx, fun _ => ⟨h0, h1, h2⟩⟩

/-! ### The transmitter -/

/-- `busy` after an operation (10_state.md R46). -/
def busyAfter (i : Instr) (s : State) : Bool :=
  match i with
  | .init | .txDone | .txErr => false
  | .telTick acc => s.busy || acc
  | .ctrlTick | .rxByte _ | .commitStep | .posRead _ | .encAdd _ _ => s.busy
  | .sample _ | .resetAll | .rampAdvance _ _ _ | .pidStep _ _ _ | .detStep _ | .decStep _ | .tlmAssemble | .actuate =>
    s.busy

/-- `txbuf` after an operation (10_state.md R47, 44_telemetry.md R241). -/
def txbufAfter (i : Instr) (s : State) : Memory :=
  match i with
  | .init => []
  | .telTick _ => if s.busy = true then s.txbuf else assembledBuffer s
  | .tlmAssemble => assembledBuffer s
  | .ctrlTick | .rxByte _ | .commitStep | .txDone | .txErr | .posRead _ | .encAdd _ _ => s.txbuf
  | .sample _ | .resetAll | .rampAdvance _ _ _ | .pidStep _ _ _ | .detStep _ | .decStep _ | .actuate => s.txbuf

theorem exec_transmitter {i : Instr} {s t : State} (h : exec i s = .next t) :
    t.busy = busyAfter i s ∧ t.txbuf = txbufAfter i s := by
  cases i with
  | init => cases h; exact ⟨rfl, rfl⟩
  | ctrlTick => rw [exec, execCtrlTick_eq] at h; cases h; exact ⟨rfl, rfl⟩
  | telTick acc =>
    rw [exec] at h
    obtain ⟨hbusy, e⟩ | ⟨hbusy, rfl, e⟩ | ⟨hbusy, rfl, e⟩ := execTelTick_cases acc s <;> rw [e] at h <;> cases h <;>
      simp [busyAfter, txbufAfter, hbusy]
  | rxByte b =>
    obtain ⟨_, _, _, _, hbusy, htxbuf, _⟩ := execRxByte_frame h
    exact ⟨hbusy, htxbuf⟩
  | commitStep =>
    obtain ⟨_, _, _, _, _, _, _, _, _, hbusy, htxbuf, _⟩ := execCommitStep_frame h
    exact ⟨hbusy, htxbuf⟩
  | detStep b =>
    cases h
    obtain ⟨_, _, _, _, _, _, _, _, hbusy, htxbuf, _⟩ := detectByte_frame b s
    exact ⟨hbusy, htxbuf⟩
  | decStep b =>
    obtain ⟨_, _, _, _, _, _, _, _, hbusy, htxbuf, _⟩ := decodeByte_frame (outcomeOf_next h)
    exact ⟨hbusy, htxbuf⟩
  | txDone | txErr | posRead | encAdd => cases h; exact ⟨rfl, rfl⟩
  | sample | resetAll | rampAdvance | pidStep | tlmAssemble | actuate => cases h; exact ⟨rfl, rfl⟩

/-- Settles O51: `busyAfter` differs from `busy` for TEL_TICK, TX_DONE, TX_ERR and INIT alone. -/
theorem busyTransitions : Obligations.BusyTransitions := by
  intro i s t h
  obtain ⟨hbusy, _⟩ := exec_transmitter h
  rw [hbusy]
  cases i with
  | init | txDone | txErr => simp [busyAfter]
  | telTick acc => simp +contextual [busyAfter]
  | ctrlTick | rxByte | commitStep | posRead | encAdd => simp +contextual [busyAfter]
  | sample | resetAll | rampAdvance | pidStep | detStep | decStep | tlmAssemble | actuate =>
    simp +contextual [busyAfter]

/-- The canonical form of `txbuf` (20_memory.md R70) is kept by every operation. -/
theorem txbufAfter_wf (i : Instr) {s : State} (h : Memory.wf telemetryLen s.txbuf) :
    Memory.wf telemetryLen (txbufAfter i s) := by
  cases i with
  | init => exact Memory.wf_nil _
  | telTick acc =>
    simp only [txbufAfter]
    split
    · exact h
    · exact assembledBuffer_wf h
  | tlmAssemble => exact assembledBuffer_wf h
  | ctrlTick | rxByte | commitStep | txDone | txErr | posRead | encAdd => exact h
  | sample | resetAll | rampAdvance | pidStep | detStep | decStep | actuate => exact h

/-! ### The state right after reset -/

/-- Settles O27. -/
theorem resetValues : Obligations.ResetValues :=
  ⟨fun i => ⟨PerAxis.get_all _ i, PerAxis.get_all _ i⟩, rfl, rfl, rfl, Memory.read_nil, rfl, rfl, rfl, rfl, rfl,
    Memory.read_nil⟩

theorem AxisInv.zero {c : Config} (hc : configLegal c = true) : AxisInv c AxisState.zero := by
  obtain ⟨_, _, _, _, hint, hout, hres, _⟩ := (configLegal_iff c).1 hc
  have hpow : (0 : Int) < 2 ^ (c.cntW - 1) := by positivity
  constructor <;> simp only [AxisState.zero, InSigned] <;> omega

/-- The elements of reset meet the invariant in every legal configuration, after any possible history: the state INIT
leaves is of this form (`initialise_eq`). -/
theorem inv_of_reset {c : Config} (hc : configLegal c = true) {hist : List OutEvent} (hh : ∀ e ∈ hist, e.Ok c)
    (input : List EventWord) : Inv { State.reset with cfg := c, input := input, hist := hist } where
  config := hc
  counters i := by simp [State.reset]
  axes i := by
    rw [State.axis_eq, State.reset, PerAxis.get_all]
    exact .zero hc
  decoder := ⟨.inl ⟨rfl, rfl⟩, .inl rfl⟩
  payload := Memory.wf_nil _
  telemetry := Memory.wf_nil _
  history := hh

/-- Settles O31. -/
theorem resetMeetsInvariant : Obligations.ResetMeetsInvariant :=
  inv_of_reset (c := Config.ref) (by decide) (hist := []) (by simp) []

/-! ### The ranges of a record -/

/-- No range of the invariant speaks of the position and the command fields: those of their types suffice. -/
theorem AxisInv.update {c : Config} {a : AxisState} (h : AxisInv c a) (p : BitVec 32) (target bias : BitVec 8) :
    AxisInv c { a with pos := p, target := target, bias := bias } :=
  ⟨h.lastDelta, h.integ, h.out, h.ramp, h.prevErr⟩

/-- The native setpoint of a ramp within `[lo, hi]` native units lies within them (42_ramp.md R181). -/
theorem tdiv_within {v lo hi n : Int} (hn : 1 ≤ n) (h : lo * n ≤ v ∧ v ≤ hi * n) : lo ≤ tdiv v n ∧ tdiv v n ≤ hi := by
  have hlo := Int.tdiv_le_tdiv (by omega : 0 < n) h.1
  have hhi := Int.tdiv_le_tdiv (by omega : 0 < n) h.2
  rw [Int.mul_tdiv_cancel _ (by omega)] at hlo hhi
  rw [tdiv_eq]
  exact ⟨hlo, hhi⟩

theorem toInt_int8_within (b : BitVec 8) : -128 ≤ b.toInt ∧ b.toInt ≤ 127 := by
  have hlo := BitVec.le_toInt b
  have hhi := BitVec.toInt_lt (x := b)
  omega

/-- The goal of a ramp lies in the range of the ramp (10_state.md R36), since a target is an int8. -/
theorem rampGoal_within {c : Config} (hres : 1 ≤ c.res) (target : BitVec 8) :
    -128 * c.res ≤ target.toInt * c.res ∧ target.toInt * c.res ≤ 127 * c.res := by
  obtain ⟨hlo, hhi⟩ := toInt_int8_within target
  exact ⟨Int.mul_le_mul_of_nonneg_right hlo (by omega), Int.mul_le_mul_of_nonneg_right hhi (by omega)⟩

/-- A ramp goes to its goal or a step toward it that does not pass it, so it stays in any range that holds both. -/
theorem rampRecord_within {c : Config} (hstep : 1 ≤ c.rampStep) {target ramp lo hi : Int} (en : Bool)
    (hgoal : lo ≤ target * c.res ∧ target * c.res ≤ hi) (hramp : lo ≤ ramp ∧ ramp ≤ hi) :
    lo ≤ rampRecord c target en ramp ∧ rampRecord c target en ramp ≤ hi := by
  unfold rampRecord
  generalize target * c.res = g at hgoal
  dsimp only
  split
  · exact hgoal
  · split
    · exact hgoal
    · obtain hlt | heq | hgt := lt_trichotomy (g - ramp) 0
      · rw [Int.sign_eq_neg_one_of_neg hlt]; omega
      · rw [heq, Int.sign_zero]; omega
      · rw [Int.sign_eq_one_of_pos hgt]; omega

/-- A control tick leaves a record in its ranges: the delta by the wrap, integral and output by the clamps, the ramp by
its goal, and the error by the setpoint's −256 … 254 and the delta. Of the record before only the ramp matters. -/
theorem tickRecord_inv {c : Config} (hc : configLegal c = true) {a : AxisState}
    (hramp : -128 * c.res ≤ a.ramp ∧ a.ramp ≤ 127 * c.res) (x : Axis) (en : Bool) (cnt : Nat) :
    AxisInv c (tickRecord c x en cnt a) := by
  obtain ⟨hcnt, _, _, _, hint, hout, hres, hstep, _⟩ := (configLegal_iff c).1 hc
  have hdelta := sext_inSigned (by omega : 1 ≤ c.cntW) cnt
  have hramp' := rampRecord_within hstep en (rampGoal_within hres a.target) hramp
  refine ⟨hdelta, clamp_within hint _, clamp_within hout _, hramp', ?prevErr⟩
  case prevErr =>
    obtain ⟨hdlo, hdhi⟩ := hdelta
    obtain ⟨hrlo, hrhi⟩ := tdiv_within hres hramp'
    obtain ⟨hblo, hbhi⟩ := toInt_int8_within a.bias
    simp only [tickRecord]
    omega

/-- Every event keeps the ranges. (An internal RAMP_ADVANCE or PID_STEP with operands no event forms need not.) -/
theorem RecordStep.axisInv {c : Config} {i : Instr} {a a' : AxisState} (hc : configLegal c = true)
    (hev : i.isEvent = true) (h : RecordStep c i a a') (ha : AxisInv c a) : AxisInv c a' := by
  cases i with
  | init => cases h; exact .zero hc
  | ctrlTick =>
    obtain ⟨x, en, cnt, rfl⟩ := h
    exact tickRecord_inv hc ha.ramp x en cnt
  | rxByte b =>
    obtain ⟨p, rfl⟩ := h
    exact ha.update p a.target a.bias
  | commitStep =>
    obtain ⟨target, bias, rfl⟩ := h
    exact ha.update a.pos target bias
  | telTick | txDone | txErr | posRead | encAdd => cases h; exact ha
  | sample | resetAll | rampAdvance | pidStep | detStep | decStep | tlmAssemble | actuate => cases hev

/-! ### The control codes and the payload -/

theorem SameDecoder.decoderInv {s t : State} (h : SameDecoder s t) (hs : DecoderInv s) : DecoderInv t := by
  obtain ⟨hdec, hcnt, _, hidx⟩ := h
  constructor
  · rw [hdec, hcnt]; exact hs.codes
  · rw [hidx, hdec]; exact hs.commit

/-- DEC_STEP keeps the control codes legal when it runs as RX_BYTE runs it, with no commit in progress. -/
theorem decodeByte_decoderInv {b : Byte} {s t : State} (h : decodeByte b s = .ok t) (hs : DecoderInv s)
    (hready : s.commitIdx = commitNone) : DecoderInv t := by
  obtain ⟨_, hp, rfl⟩ | ⟨_, rfl⟩ | ⟨_, _, rfl⟩ := decodeByte_cases h
  · have hadd : (s.plCnt + 1#4).toNat = s.plCnt.toNat + 1 := by
      rw [BitVec.toNat_add]
      exact Nat.mod_eq_of_lt (by simp; omega)
    refine ⟨.inr ?_, .inl hready⟩
    by_cases hlast : s.plCnt.toNat = 8
    · exact .inr ⟨if_pos hlast, by simp [hadd, hlast, payloadLen]⟩
    · exact .inl ⟨if_neg hlast, by simp only [hadd, payloadLen]; omega⟩
  · refine ⟨.inl ⟨rfl, rfl⟩, ?_⟩
    by_cases hb : b = 0x21#8
    · exact .inr (by simp [hb])
    · exact .inl (by simpa [hb] using hready)
  · split
    · exact ⟨.inr (.inl ⟨rfl, by simp [payloadLen]⟩), .inl hready⟩
    · exact hs

theorem decodeByte_payload_wf {b : Byte} {s t : State} (h : decodeByte b s = .ok t) (hs : Memory.wf payloadLen s.pl) :
    Memory.wf payloadLen t.pl := by
  obtain ⟨_, hp, rfl⟩ | ⟨_, rfl⟩ | ⟨_, _, rfl⟩ := decodeByte_cases h
  · exact memWrite_wf 1 hs (by simp only [payloadLen]; omega) _
  · exact hs
  · split <;> exact hs

theorem nextCommitIdx_toNat {k : BitVec 4} (hk : k.toNat ≤ 8) :
    nextCommitIdx k = commitNone ∨ (nextCommitIdx k).toNat ≤ 8 := by
  revert k
  decide

/-- COMMIT_STEP goes from one legal index to the next, and the decoder waits in AWAIT_HEADER meanwhile. -/
theorem execCommitStep_decoderInv {s t : State} (h : execCommitStep s = .next t) (hs : DecoderInv s) :
    DecoderInv t := by
  obtain ⟨_, _, _, hdec, hcnt, _⟩ := execCommitStep_frame h
  obtain ⟨hpending, rfl⟩ := execCommitStep_next h
  obtain ⟨hidx, hwait⟩ := hs.commit.resolve_left hpending
  refine ⟨by rw [hdec, hcnt]; exact hs.codes, ?_⟩
  exact (nextCommitIdx_toNat hidx).imp_right fun hle => ⟨hle, hdec.trans hwait⟩

/-- Every event keeps the control codes legal and the payload canonical within `pl` (10_state.md R41 to R44). -/
theorem exec_decoderInv {i : Instr} {s t : State} (hev : i.isEvent = true) (h : exec i s = .next t)
    (hs : DecoderInv s) (hpl : Memory.wf payloadLen s.pl) : DecoderInv t ∧ Memory.wf payloadLen t.pl := by
  cases i with
  | init =>
    cases h
    rw [initialise_eq]
    exact ⟨⟨.inl ⟨rfl, rfl⟩, .inl rfl⟩, Memory.wf_nil _⟩
  | rxByte b =>
    obtain ⟨hready, hdec⟩ := execRxByte_next h
    have hsame := detectByte_sameDecoder b s
    exact ⟨decodeByte_decoderInv hdec (hsame.decoderInv hs) (hsame.commitIdx.trans hready),
      decodeByte_payload_wf hdec (hsame.pl ▸ hpl)⟩
  | commitStep =>
    obtain ⟨_, _, _, _, _, hkeep, _⟩ := execCommitStep_frame h
    exact ⟨execCommitStep_decoderInv h hs, hkeep ▸ hpl⟩
  | ctrlTick | telTick | txDone | txErr | posRead | encAdd =>
    obtain ⟨hsame, _⟩ := exec_sameReceiver rfl h
    exact ⟨hsame.decoderInv hs, hsame.pl ▸ hpl⟩
  | sample | resetAll | rampAdvance | pidStep | detStep | decStep | tlmAssemble | actuate => cases hev

/-! ### The history -/

/-- The frame TEL_TICK submits: 42 bytes between the header and the tail (30_encoding.md R105). -/
theorem assembledBuffer_frame_ok (c : Config) (s : State) : (OutEvent.tx (bytesOf (assembledBuffer s) 42)).Ok c := by
  refine ⟨bytesOf_length _ _, ?head, ?tail⟩
  case head =>
    rw [List.head?_eq_getElem?, bytesOf_getElem _ (by decide), read_assembledBuffer]
    rfl
  case tail =>
    rw [List.getLast?_eq_getElem?, bytesOf_length, bytesOf_getElem _ (by decide), read_assembledBuffer]
    rfl

/-- The events an operation appends are possible ones when the outputs after it lie in their range. -/
theorem appendedEvents_ok {i : Instr} {s t : State} (hev : i.isEvent = true) (h : exec i s = .next t)
    (hout : ∀ x, -s.cfg.outputLimit ≤ (t.axis x).out ∧ (t.axis x).out ≤ s.cfg.outputLimit) :
    ∀ e ∈ appendedEvents i s t, e.Ok s.cfg := by
  cases i with
  | init => simp [appendedEvents, OutEvent.Ok]
  | ctrlTick => simpa [appendedEvents, OutEvent.Ok] using ⟨hout .A, hout .B, hout .C, hout .D⟩
  | telTick acc =>
    obtain ⟨_, htxbuf⟩ := exec_transmitter h
    simp only [appendedEvents, htxbuf, txbufAfter]
    split
    · rename_i hsent
      obtain ⟨_, hidle⟩ := hsent
      simpa [hidle] using assembledBuffer_frame_ok s.cfg s
    · simp
  | posRead x =>
    simp only [appendedEvents, List.mem_singleton, forall_eq]
    exact ⟨BitVec.le_toInt _, BitVec.toInt_lt⟩
  | rxByte | commitStep | txDone | txErr | encAdd => simp [appendedEvents]
  | sample | resetAll | rampAdvance | pidStep | detStep | decStep | tlmAssemble | actuate => cases hev

theorem Appends.history_ok {new : List OutEvent} {s t : State} (h : Appends new s t) (hs : ∀ e ∈ s.hist, e.Ok s.cfg)
    (hnew : ∀ e ∈ new, e.Ok s.cfg) : ∀ e ∈ t.hist, e.Ok t.cfg := by
  rw [h.hist, h.cfg]
  exact List.forall_mem_append.2 ⟨hs, hnew⟩

/-! ### The invariant -/

/-- Every event keeps the invariant. -/
theorem exec_inv {i : Instr} {s t : State} (hev : i.isEvent = true) (h : exec i s = .next t) (hs : Inv s) : Inv t := by
  have happ := exec_appends h
  have haxes : ∀ x, AxisInv s.cfg (t.axis x) := fun x => (exec_record h x).axisInv hs.config hev (hs.axes x)
  obtain ⟨hdecoder, hpayload⟩ := exec_decoderInv hev h hs.decoder hs.payload
  obtain ⟨_, htxbuf⟩ := exec_transmitter h
  exact {
    config := by rw [happ.cfg]; exact hs.config
    counters := by rw [exec_cnt h, happ.cfg]; exact cntAfter_lt i hs.counters
    axes := by rw [happ.cfg]; exact haxes
    decoder := hdecoder
    payload := hpayload
    telemetry := by rw [htxbuf]; exact txbufAfter_wf i hs.telemetry
    history := happ.history_ok hs.history (appendedEvents_ok hev h fun x => (haxes x).out) }

/-- Taking the next event word leaves every element of the block (10_state.md R54). -/
theorem Inv.setInput {s : State} (hs : Inv s) (input : List EventWord) : Inv { s with input := input } :=
  ⟨hs.config, hs.counters, hs.axes, ⟨hs.decoder.codes, hs.decoder.commit⟩, hs.payload, hs.telemetry, hs.history⟩

/-- A word decodes to events alone (30_encoding.md R115). -/
theorem isEvent_of_decode {w : EventWord} {i : Instr} (h : decode w = .ok i) : i.isEvent = true := by
  obtain ⟨h, _⟩ := decode_ok.1 h
  unfold decodeByCode at h
  split at h <;> simp only [requireDataBelow_ok, requireNoAxis_ok, Except.ok.injEq, reduceCtorEq] at h
  case h_8 => obtain ⟨_, rfl⟩ := h; rfl
  case h_9 => subst h; rfl
  all_goals obtain ⟨_, _, rfl⟩ := h; rfl

/-- Settles O30: a step idles or performs one decoded event on the state that has taken its word. -/
theorem stepKeepsInvariant : Obligations.StepKeepsInvariant := by
  intro s t hs h
  obtain ⟨_, ⟨_, rfl⟩ | ⟨w, rest, i, _, hdecode, hexec⟩⟩ := step_cases h
  · exact hs
  · exact exec_inv (isEvent_of_decode hdecode) hexec (hs.setInput rest)

end Sys2Proof.Machine
end

section
/-! Proofs for 20_memory.md: a step performs one event (R80); the commit is torn between its nine steps (R82); an in-flight
`txbuf` is not written (R83); and the order of a reset and a tick decides the position (R84). The control codes no run
reaches stand here too (R70, O29). -/

namespace Sys2Proof.Machine

open Sys2Proof

/-! ### One step, one event -/

theorem step_of_input {s : State} {w : EventWord} {rest : List EventWord} {i : Instr} (hc : configLegal s.cfg = true)
    (hinput : s.input = w :: rest) (hdecode : decode w = .ok i) : step s = exec i { s with input := rest } := by
  simp only [step, hc, if_true, takeEvent, hinput, hdecode]

theorem tableWord_toNat (w : EventWord) : tableWord 32 w.toNat = w := by
  rw [tableWord, Nat.mod_eq_of_lt w.isLt, BitVec.ofNat_toNat, BitVec.setWidth_eq]

/-- Delivering a word puts it before those waiting (log 2). -/
theorem withFetchWord_eq (s : State) (w : EventWord) : s.withFetchWord 32 w.toNat = { s with input := w :: s.input } := by
  rw [State.withFetchWord, tableWord_toNat, offerEvent]

/-- Settles O7: taking the delivered word gives back the state it was delivered to. -/
theorem stepRunsDecodedEvent : Obligations.StepRunsDecodedEvent := by
  refine ⟨fun _ _ _ _ => step_of_input, fun s w i hc hdecode => ?_⟩
  rw [withFetchWord_eq]
  exact step_of_input (s := { s with input := w :: s.input }) hc rfl hdecode

/-! ### One COMMIT_STEP -/

theorem exec_commitStep_of_pending {s : State} (h : s.commitIdx ≠ commitNone) : exec .commitStep s =
    .next { commitField s.commitIdx.toNat s with commitIdx := nextCommitIdx s.commitIdx } :=
  if_neg h

/-- Settles O29: DEC_STEP stops where the offset would lie outside `pl`, and an index above 8 names no field. -/
theorem unreachedControlCodes : Obligations.UnreachedControlCodes := by
  refine ⟨fun b s hd hp => ?_, fun s h9 h14 => ?_⟩
  · have hstop : decodeByte b s = .error .outsidePayload := (decodeByte_error_iff b s _).2 ⟨hd, hp, rfl⟩
    rw [exec, execDecStep, hstop, outcomeOf]
  · have hpending : s.commitIdx ≠ commitNone := fun h => by simp [h, commitNone] at h14
    have hnext : nextCommitIdx s.commitIdx = BitVec.ofNat 4 (s.commitIdx.toNat + 1) := by
      have hne : s.commitIdx ≠ 8#4 := fun h => by simp [h] at h9
      rw [nextCommitIdx, if_neg hne, BitVec.ofNat_add, BitVec.ofNat_toNat, BitVec.setWidth_eq]
    have hfield : commitField s.commitIdx.toNat s = s := by
      obtain ⟨_, _⟩ | ⟨_, _⟩ | ⟨_, _, _⟩ | ⟨_, h⟩ := commitField_cases s.commitIdx.toNat s
      case inr.inr.inr => exact h
      all_goals omega
    rw [exec_commitStep_of_pending hpending, hnext, hfield]

theorem axisOfIndex_eq_iff {k : Nat} (hk : k ≤ 3) (i : Axis) : axisOfIndex k = i ↔ k = i.index := by
  interval_cases k <;> cases i <;> decide

theorem axis_index_le (i : Axis) : i.index ≤ 3 := by cases i <;> decide

/-- The record of axis `i` after the write of field `k` (43_command_decoder.md R206): fields 0 to 3 are the targets and
fields 5 to 8 the biases. -/
theorem commitField_axis (k : Nat) (s : State) (i : Axis) : (commitField k s).axis i = { s.axis i with
    target := if k = i.index then Memory.read s.pl k else (s.axis i).target
    bias := if k = 5 + i.index then Memory.read s.pl k else (s.axis i).bias } := by
  have hi := axis_index_le i
  obtain ⟨hk, h⟩ | ⟨hk, h⟩ | ⟨hk, hk', h⟩ | ⟨hk, h⟩ := commitField_cases k s <;> rw [h]
  · rw [State.setAxis_axis, if_neg (show k ≠ 5 + i.index by omega)]
    by_cases hx : axisOfIndex k = i
    · rw [if_pos hx, if_pos ((axisOfIndex_eq_iff hk i).1 hx), hx]
    · rw [if_neg hx, if_neg (mt (axisOfIndex_eq_iff hk i).2 hx)]
  · rw [if_neg (by omega), if_neg (by omega)]
    rfl
  · rw [State.setAxis_axis, if_neg (show k ≠ i.index by omega)]
    have hiff := axisOfIndex_eq_iff (show k - 5 ≤ 3 by omega) i
    by_cases hx : axisOfIndex (k - 5) = i
    · have hki := hiff.1 hx
      rw [if_pos hx, if_pos (by omega), hx]
    · rw [if_neg hx, if_neg (fun hki => hx (hiff.2 (by omega)))]
  · rw [if_neg (by omega), if_neg (by omega)]

theorem commitField_rampEn (k : Nat) (s : State) :
    (commitField k s).rampEn = if k = 4 then (Memory.read s.pl 4).getLsbD 0 else s.rampEn := by
  obtain ⟨hk, h⟩ | ⟨hk, h⟩ | ⟨hk, hk', h⟩ | ⟨hk, h⟩ := commitField_cases k s <;> rw [h]
  case inr.inl => rw [if_pos hk]
  all_goals exact (if_neg (by omega)).symm

/-! ### The torn commit -/

/-- `commit_idx` with the next field `k` to be written, NONE after the last (10_state.md R44). -/
def commitIdxAt (k : Nat) : BitVec 4 := if k = 9 then 0xF#4 else BitVec.ofNat 4 k

/-- `t` is `s` with the fields of the frame below `k` committed, in every element the commit touches (20_memory.md R82). -/
structure CommittedBelow (k : Nat) (s t : State) : Prop where
  pl : t.pl = s.pl
  commitIdx : t.commitIdx = commitIdxAt k
  rampEn : t.rampEn = if 4 < k then (Memory.read s.pl 4).getLsbD 0 else s.rampEn
  axis : ∀ i, t.axis i = { s.axis i with
    target := if i.index < k then Memory.read s.pl i.index else (s.axis i).target
    bias := if 5 + i.index < k then Memory.read s.pl (5 + i.index) else (s.axis i).bias }

theorem CommittedBelow.zero {s : State} (h : s.commitIdx = 0#4) : CommittedBelow 0 s s where
  pl := rfl
  commitIdx := h
  rampEn := rfl
  axis _ := rfl

/-- A field below `k + 1` lies below `k` or is the field `k` just written. -/
theorem ite_eq_ite_lt_succ {α : Type} (f : Nat → α) (old : α) (j k : Nat) :
    (if k = j then f k else if j < k then f j else old) = if j < k + 1 then f j else old := by
  obtain h | h | h := Nat.lt_trichotomy j k
  · rw [if_neg (by omega), if_pos h, if_pos (by omega)]
  · rw [if_pos h.symm, if_pos (by omega), h]
  · rw [if_neg (by omega), if_neg (by omega), if_neg (by omega)]

theorem commitIdxAt_of_lt : ∀ k < 9, (commitIdxAt k).toNat = k ∧ commitIdxAt k ≠ commitNone ∧
    nextCommitIdx (commitIdxAt k) = commitIdxAt (k + 1) := by
  decide

theorem CommittedBelow.succ {k : Nat} {s t : State} (hk : k < 9) (h : CommittedBelow k s t) :
    ∃ u, exec .commitStep t = .next u ∧ CommittedBelow (k + 1) s u := by
  obtain ⟨hidx, hpending, hnext⟩ := commitIdxAt_of_lt k hk
  have hexec := exec_commitStep_of_pending (s := t) (by rw [h.commitIdx]; exact hpending)
  rw [h.commitIdx, hidx, hnext] at hexec
  obtain ⟨_, _, _, _, _, hpl, _⟩ := execCommitStep_frame hexec
  refine ⟨_, hexec, hpl.trans h.pl, rfl, ?_, fun i => ?_⟩
  · change (commitField k t).rampEn = _
    rw [commitField_rampEn, h.rampEn, h.pl]
    exact ite_eq_ite_lt_succ (fun _ => (Memory.read s.pl 4).getLsbD 0) s.rampEn 4 k
  · change (commitField k t).axis i = _
    rw [commitField_axis, h.axis, h.pl]
    simp only [ite_eq_ite_lt_succ (Memory.read s.pl)]

/-- A run that completes, followed by one more operation, is that operation on the state it ends in. -/
theorem runInstrs_snoc {p : List Instr} {i : Instr} {s t u : State} (hp : runInstrs p s = .next t)
    (hi : exec i t = .next u) : runInstrs (p ++ [i]) s = .next u := by
  rw [runInstrs_append, hp]
  exact runInstrs_cons hi []

theorem runInstrs_commitSteps {s : State} (h : s.commitIdx = 0#4) (k : Nat) (hk : k ≤ 9) :
    ∃ t, runInstrs (List.replicate k .commitStep) s = .next t ∧ CommittedBelow k s t := by
  induction k with
  | zero => exact ⟨s, rfl, .zero h⟩
  | succ k ih =>
    obtain ⟨t, hrun, ht⟩ := ih (by omega)
    obtain ⟨u, hstep, hu⟩ := ht.succ hk
    refine ⟨u, ?_, hu⟩
    rw [List.replicate_succ']
    exact runInstrs_snoc hrun hstep

/-- Settles O44, by induction on the number of COMMIT_STEPs (`runInstrs_commitSteps`). -/
theorem tornCommit : Obligations.TornCommit := by
  intro s k h hk
  obtain ⟨t, hrun, ht⟩ := runInstrs_commitSteps h k hk
  exact ⟨t, hrun, ht.commitIdx, ht.rampEn, ht.axis⟩

/-! ### The buffer in flight -/

/-- Of the events, TEL_TICK and INIT alone write `txbuf`, and TEL_TICK is dropped while a transfer is in flight. -/
theorem txbufAfter_of_busy {i : Instr} {s : State} (hev : i.isEvent = true) (hinit : i ≠ .init)
    (hbusy : s.busy = true) : txbufAfter i s = s.txbuf := by
  cases i with
  | init => exact absurd rfl hinit
  | telTick acc => exact if_pos hbusy
  | ctrlTick | rxByte | commitStep | txDone | txErr | posRead | encAdd => rfl
  | sample | resetAll | rampAdvance | pidStep | detStep | decStep | tlmAssemble | actuate => cases hev

/-- Settles O52. -/
theorem txbufKeptWhileBusy : Obligations.TxbufKeptWhileBusy := by
  intro i s t h hev hinit hbusy a
  obtain ⟨_, htxbuf⟩ := exec_transmitter h
  rw [htxbuf, txbufAfter_of_busy hev hinit hbusy]

/-! ### A reset against a tick -/

/-- RX_BYTE completes while the block is ready and the decoder would form no offset outside `pl`. -/
theorem execRxByte_of_ready {b : Byte} {s : State} (hready : s.commitIdx = commitNone)
    (hpl : s.decState = 1#2 → s.plCnt.toNat < 9) : ∃ t, execRxByte b s = .next t := by
  have hd := detectByte_sameDecoder b s
  obtain ⟨t, ht⟩ := decodeByte_ok (b := b) (s := detectByte b s) (by rwa [hd.decState, hd.plCnt])
  exact ⟨t, by rw [execRxByte, State.rxReady, decide_eq_true hready, if_pos rfl, ht, outcomeOf]⟩

/-- The byte that completes 0x21 0x40 0x21 is received and zeroes every position (43_command_decoder.md R202). -/
theorem execRxByte_trigger {s : State} (hready : s.commitIdx = commitNone)
    (hpl : s.decState = 1#2 → s.plCnt.toNat < 9) (h1 : s.win1 = 0x21#8) (h2 : s.win2 = 0x40#8) :
    ∃ t, exec (.rxByte 0x21#8) s = .next t ∧ t.cfg = s.cfg ∧ t.cnt = s.cnt ∧ ∀ i, (t.axis i).pos = 0#32 := by
  obtain ⟨t, ht⟩ := execRxByte_of_ready (b := 0x21#8) hready hpl
  obtain ⟨hcfg, _, hcnt, _, _, _, _, haxis⟩ := execRxByte_frame ht
  refine ⟨t, ht, hcfg, hcnt, fun i => ?_⟩
  rw [haxis, if_pos ⟨h1, h2, rfl⟩]

/-- A control tick completes and adds to every position the truncated quotient of its delta (40_encoder_tracker.md R142,
45_control_tick.md R271). -/
theorem exec_ctrlTick_pos {s : State} (hc : configLegal s.cfg = true) : ∃ t, exec .ctrlTick s = .next t ∧
    ∀ i, (t.axis i).pos = BitVec.ofInt 32
      ((s.axis i).pos.toInt + Int.tdiv (Int.bmod (s.cnt.get i) (2 ^ s.cfg.cntW)) s.cfg.posDiv) := by
  obtain ⟨hw, _⟩ := (configLegal_iff _).1 hc
  have hpos : ∀ i, (tickRecord s.cfg i s.rampEn (s.cnt.get i) (s.axis i)).pos = BitVec.ofInt 32
      ((s.axis i).pos.toInt + Int.tdiv (Int.bmod (s.cnt.get i) (2 ^ s.cfg.cntW)) s.cfg.posDiv) := fun i => by
    rw [tickRecord, wrap32_eq, tdiv_eq, sext_eq_bmod (by omega)]
  refine ⟨_, execCtrlTick_eq s, fun i => ?_⟩
  cases i <;> exact hpos _

/-- Settles O35: the tick adds to zeroed positions, or the reset zeroes what the tick has added; a tick leaves the receive
side as it was, so the byte is still the trigger after it. -/
theorem resetAgainstTick : Obligations.ResetAgainstTick := by
  intro s hc hready hpl h1 h2
  constructor
  · obtain ⟨t, hrx, hcfg, hcnt, hzero⟩ := execRxByte_trigger hready hpl h1 h2
    obtain ⟨u, htick, hpos⟩ := exec_ctrlTick_pos (s := t) (by rwa [hcfg])
    refine ⟨u, ?_, fun i => ?_⟩
    · rw [runInstrs_cons hrx]
      exact runInstrs_cons htick []
    · rw [hpos, hzero, hcfg, hcnt, BitVec.toInt_zero, Int.zero_add]
  · obtain ⟨t, htick, _⟩ := exec_ctrlTick_pos hc
    obtain ⟨hdec, hwin⟩ := exec_sameReceiver rfl htick
    obtain ⟨u, hrx, _, _, hzero⟩ := execRxByte_trigger (hdec.commitIdx.trans hready)
      (by rwa [hdec.decState, hdec.plCnt]) (hwin.win1.trans h1) (hwin.win2.trans h2)
    refine ⟨u, ?_, hzero⟩
    rw [runInstrs_cons htick]
    exact runInstrs_cons hrx []

end Sys2Proof.Machine
end

section
/-! Proofs for 30_encoding.md: decoder and encoder are inverse to each other (R110 to R115), which words are refused (R113)
and which rows of the opcode table they fit; the stuck events (R114); the worked encodings (R119); the pseudo-instruction
`cmd` (R118, R102); and the telemetry round trip (R106). -/

namespace Sys2Proof.Machine

open Sys2Proof

/-! ### The bits an event fixes -/

/-- The bits of its word an event fixes (30_encoding.md R110 to R112): its code, `ax` = 0 unless it takes an axis, `rsv` = 0,
and 0 in the `data` bits from bit `n` up. The bits left are its operands. -/
structure FixedBits (ev : BitVec 4) (takesAxis : Bool) (n : Nat) (w : EventWord) : Prop where
  code : evField w = ev
  axis : takesAxis = false → axField w = 0#2
  reserved : rsvField w = 0#10
  data : dataField w >>> n = 0#16

theorem fixedBits_iff {ev : BitVec 4} {takesAxis : Bool} {n : Nat} {w : EventWord} : FixedBits ev takesAxis n w ↔
    evField w = ev ∧ (takesAxis = false → axField w = 0#2) ∧ rsvField w = 0#10 ∧ dataField w >>> n = 0#16 :=
  ⟨fun ⟨hev, hax, hrsv, hdata⟩ => ⟨hev, hax, hrsv, hdata⟩, fun ⟨hev, hax, hrsv, hdata⟩ => ⟨hev, hax, hrsv, hdata⟩⟩

/-- `w` carries the event `i` with its operands (30_encoding.md R111, R112); no word carries an internal operation (R115). -/
def CarriesEvent (w : EventWord) (i : Instr) : Prop :=
  match i with
  | .init => FixedBits 0x1#4 false 0 w
  | .ctrlTick => FixedBits 0x2#4 false 0 w
  | .telTick acc => FixedBits 0x3#4 false 1 w ∧ acc = (dataField w).getLsbD 0
  | .rxByte b => FixedBits 0x4#4 false 8 w ∧ b = (dataField w).extractLsb' 0 8
  | .commitStep => FixedBits 0x5#4 false 0 w
  | .txDone => FixedBits 0x6#4 false 0 w
  | .txErr => FixedBits 0x7#4 false 0 w
  | .posRead x => FixedBits 0x8#4 true 0 w ∧ x = axisOfField (axField w)
  | .encAdd x k => FixedBits 0x9#4 true 16 w ∧ x = axisOfField (axField w) ∧ k = (dataField w).toInt
  | .sample _ | .resetAll | .rampAdvance _ _ _ | .pidStep _ _ _ | .detStep _ | .decStep _ | .tlmAssemble | .actuate =>
    False

/-! ### What the decoder reads -/

theorem evField_eq_of_toNat {w : EventWord} {n : Nat} (h : (evField w).toNat = n) : evField w = BitVec.ofNat 4 n := by
  rw [← h, BitVec.ofNat_toNat, BitVec.setWidth_eq]

theorem decodeByCode_ok_iff {w : EventWord} {i : Instr} (hrsv : rsvField w = 0#10) :
    decodeByCode w = .ok i ↔ CarriesEvent w i := by
  constructor
  · intro h
    unfold decodeByCode at h
    split at h <;> rename_i hcode <;>
      simp only [requireDataBelow_ok, requireNoAxis_ok, Except.ok.injEq, reduceCtorEq] at h
    case h_8 =>
      obtain ⟨hdata, rfl⟩ := h
      exact ⟨⟨evField_eq_of_toNat hcode, nofun, hrsv, hdata⟩, rfl⟩
    case h_9 =>
      subst h
      exact ⟨⟨evField_eq_of_toNat hcode, nofun, hrsv, BitVec.ushiftRight_eq_zero le_rfl⟩, rfl, rfl⟩
    case h_3 | h_4 =>
      obtain ⟨hdata, hax, rfl⟩ := h
      exact ⟨⟨evField_eq_of_toNat hcode, fun _ => hax, hrsv, hdata⟩, rfl⟩
    all_goals
      obtain ⟨hdata, hax, rfl⟩ := h
      exact ⟨evField_eq_of_toNat hcode, fun _ => hax, hrsv, hdata⟩
  · intro h
    cases i with
    | init | ctrlTick | commitStep | txDone | txErr =>
      obtain ⟨hev, hax, _, hdata⟩ := h
      simp [decodeByCode, hev, requireDataBelow_ok, requireNoAxis_ok, hdata, hax]
    | telTick | rxByte =>
      obtain ⟨⟨hev, hax, _, hdata⟩, rfl⟩ := h
      simp [decodeByCode, hev, requireDataBelow_ok, requireNoAxis_ok, hdata, hax]
    | posRead x =>
      obtain ⟨⟨hev, _, _, hdata⟩, rfl⟩ := h
      simp [decodeByCode, hev, requireDataBelow_ok, hdata]
    | encAdd x k =>
      obtain ⟨⟨hev, _, _, _⟩, rfl, rfl⟩ := h
      simp [decodeByCode, hev]
    | sample | resetAll | rampAdvance | pidStep | detStep | decStep | tlmAssemble | actuate => cases h

theorem CarriesEvent.reserved {w : EventWord} {i : Instr} (h : CarriesEvent w i) : rsvField w = 0#10 := by
  cases i with
  | init | ctrlTick | commitStep | txDone | txErr => exact FixedBits.reserved h
  | telTick | rxByte | posRead | encAdd =>
    obtain ⟨hfixed, _⟩ := h
    exact hfixed.reserved
  | sample | resetAll | rampAdvance | pidStep | detStep | decStep | tlmAssemble | actuate => cases h

/-- The decoder, in the fields of the word: it answers exactly the event the word carries. -/
theorem decode_ok_iff_carries {w : EventWord} {i : Instr} : decode w = .ok i ↔ CarriesEvent w i := by
  rw [decode_ok]
  exact ⟨fun ⟨h, hrsv⟩ => (decodeByCode_ok_iff hrsv).1 h, fun h => ⟨(decodeByCode_ok_iff h.reserved).2 h, h.reserved⟩⟩

/-! ### What the encoder writes -/

theorem eventWord_eq_iff {ev : BitVec 4} {ax : BitVec 2} {data : BitVec 16} {w : EventWord} :
    eventWord ev ax data = w ↔ evField w = ev ∧ axField w = ax ∧ rsvField w = 0#10 ∧ dataField w = data := by
  constructor
  · rintro rfl
    simp
  · rintro ⟨rfl, rfl, hrsv, rfl⟩
    exact eventWord_fields hrsv

/-- An operand below bit `n` of `data`, and 0 above it, is the operand widened to 16 bits. -/
theorem eq_setWidth_iff {n : Nat} (hn : n ≤ 16) (d : BitVec 16) (b : BitVec n) :
    d = b.setWidth 16 ↔ d >>> n = 0#16 ∧ b = d.extractLsb' 0 n := by
  have hb := b.isLt
  have hpow : 2 ^ n ≤ 2 ^ 16 := Nat.pow_le_pow_right (by decide) hn
  have hdiv := Nat.div_add_mod d.toNat (2 ^ n)
  simp only [← BitVec.toNat_inj, BitVec.toNat_setWidth, BitVec.toNat_ushiftRight, BitVec.extractLsb'_toNat,
    Nat.shiftRight_eq_div_pow, pow_zero, Nat.div_one, BitVec.toNat_ofNat, Nat.zero_mod,
    Nat.mod_eq_of_lt (lt_of_lt_of_le hb hpow)]
  constructor
  · intro h
    rw [h]
    exact ⟨Nat.div_eq_of_lt hb, (Nat.mod_eq_of_lt hb).symm⟩
  · rintro ⟨h0, h1⟩
    rw [h0, Nat.mul_zero, Nat.zero_add] at hdiv
    exact hdiv.symm.trans h1.symm

theorem ofBool_eq_extractLsb'_iff (acc : Bool) (d : BitVec 16) :
    BitVec.ofBool acc = d.extractLsb' 0 1 ↔ acc = d.getLsbD 0 := by
  have h : d.extractLsb' 0 1 = BitVec.ofBool (d.getLsbD 0) := by
    ext k hk
    obtain rfl : k = 0 := by omega
    simp
  rw [h, BitVec.ofBool_eq_iff_eq]

theorem eq_axisOfField_iff (x : Axis) (ax : BitVec 2) : x = axisOfField ax ↔ ax = fieldOfAxis x := by
  constructor
  · rintro rfl
    exact (fieldOfAxis_axisOfField ax).symm
  · rintro rfl
    exact (axisOfField_fieldOfAxis x).symm

theorem inSigned_mono {n m : Nat} (h : n ≤ m) {v : Int} (hv : InSigned n v) : InSigned m v := by
  have hpow : (2 : Int) ^ (n - 1) ≤ 2 ^ (m - 1) := pow_le_pow_right₀ (by norm_num) (by omega)
  obtain ⟨hlo, hhi⟩ := hv
  exact ⟨by omega, by omega⟩

theorem toInt_inSigned {n : Nat} (d : BitVec n) : InSigned n d.toInt := ⟨BitVec.le_toInt d, BitVec.toInt_lt⟩

theorem toInt_ofInt_of_inSigned {n : Nat} (hn : 1 ≤ n) {v : Int} (h : InSigned n v) : (BitVec.ofInt n v).toInt = v := by
  rw [BitVec.toInt_ofInt, ← sext_eq_bmod hn, sext_of_inSigned hn h]

theorem eq_toInt_iff {n : Nat} (hn : 1 ≤ n) (k : Int) (d : BitVec n) :
    k = d.toInt ↔ InSigned n k ∧ d = BitVec.ofInt n k := by
  constructor
  · rintro rfl
    exact ⟨toInt_inSigned d, BitVec.ofInt_toInt.symm⟩
  · rintro ⟨hk, rfl⟩
    exact (toInt_ofInt_of_inSigned hn hk).symm

/-- The encoder, in the fields of the word: the word of a well-formed event is the one that carries it. -/
theorem carriesEvent_iff_encode {w : EventWord} {i : Instr} :
    CarriesEvent w i ↔ i.wellFormed = true ∧ encode i = some w := by
  cases i with
  | init | ctrlTick | commitStep | txDone | txErr =>
    simp [CarriesEvent, fixedBits_iff, Instr.wellFormed, encode, eventWord_eq_iff]
  | telTick acc =>
    simp [CarriesEvent, fixedBits_iff, Instr.wellFormed, encode, eventWord_eq_iff, and_assoc, eq_setWidth_iff,
      ofBool_eq_extractLsb'_iff]
  | rxByte b =>
    simp [CarriesEvent, fixedBits_iff, Instr.wellFormed, encode, eventWord_eq_iff, and_assoc, eq_setWidth_iff]
  | posRead x =>
    simp only [CarriesEvent, fixedBits_iff, Instr.wellFormed, encode, Option.some.injEq, eventWord_eq_iff,
      eq_axisOfField_iff, BitVec.ushiftRight_zero]
    tauto
  | encAdd x k =>
    simp only [CarriesEvent, fixedBits_iff, Instr.wellFormed, encode, Option.some.injEq, eventWord_eq_iff,
      eq_axisOfField_iff, eq_toInt_iff (n := 16) (by decide), decide_eq_true_eq, BitVec.ushiftRight_eq_zero (le_refl 16)]
    tauto
  | sample | resetAll | rampAdvance | pidStep | detStep | decStep | tlmAssemble | actuate =>
    simp [CarriesEvent, encode]

/-! ### Decoder and encoder -/

/-- Decoder and encoder are inverse to each other on the well-formed events. -/
theorem decode_ok_iff_encode {w : EventWord} {i : Instr} :
    decode w = .ok i ↔ i.wellFormed = true ∧ encode i = some w :=
  decode_ok_iff_carries.trans carriesEvent_iff_encode

/-- Exactly the events have a word (30_encoding.md R111, R115). -/
theorem isEvent_iff_encode (i : Instr) : i.isEvent = true ↔ ∃ w, encode i = some w := by
  cases i <;> simp [Instr.isEvent, encode]

/-- Settles O3: an event has a word, and the decoder inverts the encoder on it (`decode_ok_iff_encode`). -/
theorem decodeEncodeRoundTrip : Obligations.DecodeEncodeRoundTrip := by
  intro i hev hwf
  obtain ⟨w, hw⟩ := (isEvent_iff_encode i).1 hev
  exact ⟨w, hw, decode_ok_iff_encode.2 ⟨hwf, hw⟩⟩

/-- Settles O4: the same law from the word's side; what decodes is an event, so an internal operation has no word. -/
theorem decodedWordEncodesBack : Obligations.DecodedWordEncodesBack := by
  refine ⟨fun w i h => ?_, fun i hint => ⟨?_, fun w h => ?_⟩⟩
  · obtain ⟨hwf, hw⟩ := decode_ok_iff_encode.1 h
    exact ⟨(isEvent_iff_encode i).2 ⟨w, hw⟩, hwf, hw⟩
  · rw [Option.eq_none_iff_forall_ne_some]
    exact fun w hw => by simp [(isEvent_iff_encode i).2 ⟨w, hw⟩] at hint
  · simp [isEvent_of_decode h] at hint

/-! ### The meaning of a word -/

/-- The bits of `data` from bit `n` up, read as a field of the word. -/
theorem dataField_ushiftRight_eq_zero_iff {n m : Nat} (h : n + m = 16) (w : EventWord) :
    dataField w >>> n = 0#16 ↔ w.extractLsb' n m = 0#m := by
  simp only [BitVec.eq_of_getLsbD_eq_iff, BitVec.getLsbD_ushiftRight, dataField, BitVec.getLsbD_extractLsb',
    BitVec.getLsbD_zero]
  constructor
  · intro hz k hk
    simpa [hk, show n + k < 16 by omega] using hz k (by omega)
  · intro hz k hk
    by_cases hkm : k < m
    · simpa [hkm, show n + k < 16 by omega] using hz k hkm
    · simp [show ¬ n + k < 16 by omega]

theorem fixedBits_noAxis_iff {ev : BitVec 4} {n m : Nat} (h : n + m = 16) (w : EventWord) : FixedBits ev false n w ↔
    w.extractLsb' 16 10 = 0#10 ∧ w.extractLsb' 28 4 = ev ∧ w.extractLsb' 26 2 = 0#2 ∧ w.extractLsb' n m = 0#m := by
  rw [fixedBits_iff, dataField_ushiftRight_eq_zero_iff h, evField, axField, rsvField]
  tauto

theorem fixedBits_axis_iff {ev : BitVec 4} {n m : Nat} (h : n + m = 16) (w : EventWord) : FixedBits ev true n w ↔
    w.extractLsb' 16 10 = 0#10 ∧ w.extractLsb' 28 4 = ev ∧ w.extractLsb' n m = 0#m := by
  rw [fixedBits_iff, dataField_ushiftRight_eq_zero_iff h, evField, axField, rsvField]
  tauto

theorem eq_axisOfField_iff_index (x : Axis) (ax : BitVec 2) : x = axisOfField ax ↔ ax.toNat = x.index := by
  revert ax
  cases x <;> decide

theorem dataField_getElem_zero (w : EventWord) : (dataField w)[0] = w[0] := by simp [dataField]

theorem dataField_low_byte (w : EventWord) : (dataField w).extractLsb' 0 8 = w.extractLsb' 0 8 := by
  ext k hk
  simp [dataField]

/-- Settles O2: the clauses are `CarriesEvent`, one per event. -/
theorem eventWordMeaning : Obligations.EventWordMeaning := by
  intro w i
  rw [decode_ok_iff_carries]
  cases i with
  | init | ctrlTick | commitStep | txDone | txErr =>
    simp [CarriesEvent, fixedBits_noAxis_iff (n := 0) (m := 16) rfl]
  | telTick acc =>
    simp [CarriesEvent, fixedBits_noAxis_iff (n := 1) (m := 15) rfl, dataField_getElem_zero, and_assoc]
  | rxByte b =>
    simp [CarriesEvent, fixedBits_noAxis_iff (n := 8) (m := 8) rfl, dataField_low_byte, and_assoc]
  | posRead x =>
    simp [CarriesEvent, fixedBits_axis_iff (n := 0) (m := 16) rfl, eq_axisOfField_iff_index, axField, and_assoc]
  | encAdd x k =>
    simp [CarriesEvent, fixedBits_axis_iff (n := 16) (m := 0) rfl, eq_axisOfField_iff_index, axField, dataField,
      and_assoc]
  | sample | resetAll | rampAdvance | pidStep | detStep | decStep | tlmAssemble | actuate => simp [CarriesEvent]

/-! ### The refused words -/

/-- R113's list: an unused code, or a nonzero bit in `rsv`, in `ax` or in `data` where R112 says it must be 0. -/
def RefusedFields (w : EventWord) : Prop :=
  evField w = 0#4 ∨ 10 ≤ (evField w).toNat ∨ rsvField w ≠ 0#10 ∨
    (axField w ≠ 0#2 ∧ evField w ≠ 8#4 ∧ evField w ≠ 9#4) ∨
    (dataField w ≠ 0#16 ∧ evField w ≠ 3#4 ∧ evField w ≠ 4#4 ∧ evField w ≠ 9#4) ∨
    (w.extractLsb' 1 15 ≠ 0#15 ∧ evField w = 3#4) ∨ (w.extractLsb' 8 8 ≠ 0#8 ∧ evField w = 4#4)

theorem requireNoAxis_error {w : EventWord} {i : Instr} {e : DecodeError} (h : requireNoAxis w i = .error e) :
    axField w ≠ 0#2 := by
  intro hax
  simp [requireNoAxis, hax] at h

theorem requireDataBelow_error {n : Nat} {w : EventWord} {r : Except DecodeError Instr} {e : DecodeError}
    (h : requireDataBelow n w r = .error e) : dataField w >>> n ≠ 0#16 ∨ r = .error e := by
  unfold requireDataBelow at h
  split at h
  · exact .inr h
  · exact .inl ‹_›

theorem requireDataBelow_requireNoAxis_error {n : Nat} {w : EventWord} {i : Instr} {e : DecodeError}
    (h : requireDataBelow n w (requireNoAxis w i) = .error e) : axField w ≠ 0#2 ∨ dataField w >>> n ≠ 0#16 :=
  (requireDataBelow_error h).symm.imp_left requireNoAxis_error

/-- Each branch of `decodeByCode` that fails: a test of the axis or the data bits, or no code of an event. -/
theorem refusedFields_of_code_error {w : EventWord} {e : DecodeError} (h : decodeByCode w = .error e) :
    RefusedFields w := by
  unfold RefusedFields
  unfold decodeByCode at h
  split at h
  case h_3 =>
    have hbits := requireDataBelow_requireNoAxis_error h
    rw [ne_eq (_ >>> _), dataField_ushiftRight_eq_zero_iff (m := 15) rfl] at hbits
    simpa [evField_eq_of_toNat ‹_›] using Or.inr (a := rsvField w ≠ 0#10) hbits
  case h_4 =>
    have hbits := requireDataBelow_requireNoAxis_error h
    rw [ne_eq (_ >>> _), dataField_ushiftRight_eq_zero_iff (m := 8) rfl] at hbits
    simpa [evField_eq_of_toNat ‹_›] using Or.inr (a := rsvField w ≠ 0#10) hbits
  case h_8 =>
    have hdata := (requireDataBelow_error h).resolve_right nofun
    simpa [evField_eq_of_toNat ‹_›] using Or.inr (a := rsvField w ≠ 0#10) hdata
  case h_9 => cases h
  case h_10 =>
    have hcode : (evField w).toNat = 0 ∨ 10 ≤ (evField w).toNat := by
      simp only [imp_false] at *
      omega
    exact hcode.elim (fun h0 => .inl (evField_eq_of_toNat h0)) (fun h10 => .inr (.inl h10))
  all_goals
    have hbits := requireDataBelow_requireNoAxis_error h
    simpa [evField_eq_of_toNat ‹_›] using Or.inr (a := rsvField w ≠ 0#10) hbits

/-- Every failing test of the decoder is a clause of R113. -/
theorem refusedFields_of_error {w : EventWord} {e : DecodeError} (h : decode w = .error e) : RefusedFields w := by
  unfold decode at h
  split at h
  · exact refusedFields_of_code_error ‹_›
  · split at h
    · cases h
    · exact .inr (.inr (.inl ‹_›))

/-- A word that carries an event meets no clause of R113. -/
theorem CarriesEvent.not_refusedFields {w : EventWord} {i : Instr} (h : CarriesEvent w i) : ¬ RefusedFields w := by
  unfold RefusedFields
  cases i with
  | init | ctrlTick | commitStep | txDone | txErr =>
    obtain ⟨hev, hax, hrsv, hdata⟩ := h
    rw [BitVec.ushiftRight_zero] at hdata
    simp [hev, hax rfl, hrsv, hdata]
  | telTick acc =>
    obtain ⟨⟨hev, hax, hrsv, hdata⟩, _⟩ := h
    rw [dataField_ushiftRight_eq_zero_iff (m := 15) rfl] at hdata
    simp [hev, hax rfl, hrsv, hdata]
  | rxByte b =>
    obtain ⟨⟨hev, hax, hrsv, hdata⟩, _⟩ := h
    rw [dataField_ushiftRight_eq_zero_iff (m := 8) rfl] at hdata
    simp [hev, hax rfl, hrsv, hdata]
  | posRead x =>
    obtain ⟨⟨hev, _, hrsv, hdata⟩, _⟩ := h
    rw [BitVec.ushiftRight_zero] at hdata
    simp [hev, hrsv, hdata]
  | encAdd x k =>
    obtain ⟨⟨hev, _, hrsv, _⟩, _, _⟩ := h
    simp [hev, hrsv]
  | sample | resetAll | rampAdvance | pidStep | detStep | decStep | tlmAssemble | actuate => cases h

theorem decode_error_iff (w : EventWord) : (∃ e, decode w = .error e) ↔ RefusedFields w := by
  refine ⟨fun ⟨e, h⟩ => refusedFields_of_error h, fun h => ?_⟩
  cases hd : decode w with
  | error e => exact ⟨e, rfl⟩
  | ok i => exact absurd h (decode_ok_iff_carries.1 hd).not_refusedFields

theorem step_of_refused {s : State} {w : EventWord} {rest : List EventWord} {e : DecodeError}
    (hc : configLegal s.cfg = true) (hinput : s.input = w :: rest) (hdecode : decode w = .error e) :
    step s = .refused (.badEventWord e) := by
  simp only [step, hc, if_true, takeEvent, hinput, hdecode]

/-- Settles O5: R113's clauses are the tests of the decoder, one by one (`decode_error_iff`). -/
theorem refusedEventWords : Obligations.RefusedEventWords :=
  fun w => ⟨decode_error_iff w, fun _ _ _ => step_of_refused⟩

/-! ### The opcode table -/

theorem eventWord_ext_iff (v w : EventWord) : v = w ↔
    evField v = evField w ∧ axField v = axField w ∧ rsvField v = rsvField w ∧ dataField v = dataField w := by
  constructor
  · rintro rfl
    exact ⟨rfl, rfl, rfl, rfl⟩
  · simp only [evField, axField, rsvField, dataField, ← BitVec.toNat_inj, BitVec.extractLsb'_toNat,
      Nat.shiftRight_eq_div_pow]
    omega

/-- The mask of `r` tests the code and `rsv`, `ax` unless the event takes an axis, and `data` from bit `n` up; its value is
the code alone. -/
abbrev EventRow.Tests (r : EventRow) (ev : BitVec 4) (takesAxis : Bool) (n : Nat) : Prop :=
  evField r.mask = BitVec.allOnes 4 ∧ axField r.mask = (if takesAxis then 0#2 else BitVec.allOnes 2) ∧
    rsvField r.mask = BitVec.allOnes 10 ∧ dataField r.mask = BitVec.allOnes 16 <<< n ∧ r.value = eventWord ev 0#2 0#16

theorem and_allOnes_shiftLeft_eq_zero_iff (d : BitVec 16) (n : Nat) :
    d &&& (BitVec.allOnes 16 <<< n) = 0#16 ↔ d >>> n = 0#16 := by
  simp only [BitVec.eq_of_getLsbD_eq_iff, BitVec.getLsbD_and, BitVec.getLsbD_shiftLeft, BitVec.getLsbD_allOnes,
    BitVec.getLsbD_ushiftRight, BitVec.getLsbD_zero]
  constructor
  · intro h k _
    by_cases hk : n + k < 16
    · have := h (n + k) hk
      simp_all
    · exact BitVec.getLsbD_of_ge _ _ (by omega)
  · intro h k hk
    by_cases hnk : k < n
    · simp [hnk]
    · have := h (k - n) (by omega)
      rw [Nat.add_sub_cancel' (by omega)] at this
      simp [this]

theorem fits_iff_fixedBits {r : EventRow} {ev : BitVec 4} {takesAxis : Bool} {n : Nat} (h : EventRow.Tests r ev takesAxis n)
    (w : EventWord) : r.fits w = true ↔ FixedBits ev takesAxis n w := by
  obtain ⟨hev, hax, hrsv, hdata, hvalue⟩ := h
  have hand : ∀ m : EventWord, evField (w &&& m) = evField w &&& evField m ∧ axField (w &&& m) = axField w &&& axField m ∧
      rsvField (w &&& m) = rsvField w &&& rsvField m ∧ dataField (w &&& m) = dataField w &&& dataField m := fun m =>
    ⟨BitVec.extractLsb'_and, BitVec.extractLsb'_and, BitVec.extractLsb'_and, BitVec.extractLsb'_and⟩
  obtain ⟨h1, h2, h3, h4⟩ := hand r.mask
  rw [EventRow.fits, beq_iff_eq, hvalue, eventWord_ext_iff, h1, h2, h3, h4, hev, hax, hrsv, hdata, fixedBits_iff,
    evField_eventWord, axField_eventWord, rsvField_eventWord, dataField_eventWord, BitVec.and_allOnes, BitVec.and_allOnes,
    and_allOnes_shiftLeft_eq_zero_iff]
  cases takesAxis
  · simp only [Bool.false_eq_true, if_false, BitVec.and_allOnes, forall_const]
  · simp

/-- The row of an event tests the bits the event fixes. -/
theorem eventRow_fits_of_carries {w : EventWord} {i : Instr} (h : CarriesEvent w i) :
    ∃ r ∈ eventRows, eventRow i = some r ∧ r.fits w = true := by
  cases i with
  | init | ctrlTick | commitStep | txDone | txErr =>
    exact ⟨_, by simp [eventRows], rfl, (fits_iff_fixedBits (by decide) w).2 h⟩
  | telTick | rxByte | posRead | encAdd =>
    obtain ⟨hfixed, _⟩ := h
    exact ⟨_, by simp [eventRows], rfl, (fits_iff_fixedBits (by decide) w).2 hfixed⟩
  | sample | resetAll | rampAdvance | pidStep | detStep | decStep | tlmAssemble | actuate => cases h

/-- A word that fits a row carries that row's event, with its operands read from the bits left free. -/
theorem carries_of_fits {w : EventWord} {r : EventRow} (hr : r ∈ eventRows) (h : r.fits w = true) :
    ∃ i, CarriesEvent w i ∧ eventRow i = some r := by
  simp only [eventRows, List.mem_cons, List.not_mem_nil, or_false] at hr
  obtain rfl | rfl | rfl | rfl | rfl | rfl | rfl | rfl | rfl := hr
  · exact ⟨.init, (fits_iff_fixedBits (by decide) w).1 h, rfl⟩
  · exact ⟨.ctrlTick, (fits_iff_fixedBits (by decide) w).1 h, rfl⟩
  · exact ⟨.telTick _, ⟨(fits_iff_fixedBits (by decide) w).1 h, rfl⟩, rfl⟩
  · exact ⟨.rxByte _, ⟨(fits_iff_fixedBits (by decide) w).1 h, rfl⟩, rfl⟩
  · exact ⟨.commitStep, (fits_iff_fixedBits (by decide) w).1 h, rfl⟩
  · exact ⟨.txDone, (fits_iff_fixedBits (by decide) w).1 h, rfl⟩
  · exact ⟨.txErr, (fits_iff_fixedBits (by decide) w).1 h, rfl⟩
  · exact ⟨.posRead _, ⟨(fits_iff_fixedBits (by decide) w).1 h, rfl⟩, rfl⟩
  · exact ⟨.encAdd _ _, ⟨(fits_iff_fixedBits (by decide) w).1 h, rfl, rfl⟩, rfl⟩

/-- Settles O6: the row of an event tests exactly the bits the event fixes (`fits_iff_fixedBits`). -/
theorem opcodeTableDecides : Obligations.OpcodeTableDecides := by
  refine ⟨fun w i h => eventRow_fits_of_carries (decode_ok_iff_carries.1 h), fun w r hr hfits => ?_⟩
  obtain ⟨i, hcarries, hrow⟩ := carries_of_fits hr hfits
  exact ⟨i, decode_ok_iff_carries.2 hcarries, hrow⟩

/-! ### The stuck events -/

theorem outcomeOf_fault_iff {r : Except Fault State} {f : Fault} : outcomeOf r = .fault f ↔ r = .error f := by
  cases r <;> simp [outcomeOf]

/-- With legal control codes DEC_STEP forms no offset outside `pl` and completes. -/
theorem decodeByte_ne_error {s : State} (hs : DecoderInv s) (b : Byte) (f : Fault) : decodeByte b s ≠ .error f := by
  intro h
  obtain ⟨hdec, hcnt, _⟩ := (decodeByte_error_iff b s f).1 h
  obtain ⟨hd, _⟩ | ⟨_, hlt⟩ | ⟨hd, _⟩ := hs.codes
  · exact absurd (hdec.symm.trans hd) (by decide)
  · exact absurd hlt (Nat.not_lt.2 hcnt)
  · exact absurd (hdec.symm.trans hd) (by decide)

theorem execRxByte_of_busy {s : State} (b : Byte) (h : s.commitIdx ≠ commitNone) :
    execRxByte b s = .fault .rxNotReady := by
  rw [execRxByte, State.rxReady, decide_eq_false h, if_neg (by decide)]

theorem execRxByte_fault_iff {s : State} (hs : DecoderInv s) (b : Byte) :
    (∃ f, execRxByte b s = .fault f) ↔ s.commitIdx ≠ commitNone := by
  refine ⟨fun ⟨f, h⟩ hready => ?_, fun h => ⟨_, execRxByte_of_busy b h⟩⟩
  rw [execRxByte, State.rxReady, decide_eq_true hready, if_pos rfl, outcomeOf_fault_iff] at h
  exact decodeByte_ne_error ((detectByte_sameDecoder b s).decoderInv hs) b f h

theorem execCommitStep_fault_iff (s : State) : (∃ f, execCommitStep s = .fault f) ↔ s.commitIdx = commitNone := by
  unfold execCommitStep
  split <;> simp_all

/-- With legal control codes the operations without a step are the two stuck events of 30_encoding.md R114. -/
theorem exec_fault_iff (i : Instr) {s : State} (hs : DecoderInv s) : (∃ f, exec i s = .fault f) ↔
    (∃ b, i = .rxByte b) ∧ s.commitIdx ≠ commitNone ∨ i = .commitStep ∧ s.commitIdx = commitNone := by
  cases i with
  | rxByte b => simpa [exec] using execRxByte_fault_iff hs b
  | commitStep => simpa [exec] using execCommitStep_fault_iff s
  | decStep b => simpa [exec, execDecStep, outcomeOf_fault_iff] using decodeByte_ne_error hs b
  | telTick acc =>
    obtain ⟨_, h⟩ | ⟨_, _, h⟩ | ⟨_, _, h⟩ := execTelTick_cases acc s <;> simp [exec, h]
  | init | ctrlTick | txDone | txErr | posRead | encAdd
  | sample | resetAll | rampAdvance | pidStep | detStep | tlmAssemble | actuate =>
    refine iff_of_false (fun ⟨_, h⟩ => ?_) (by simp)
    cases h

/-- Settles O28: the two stuck events, then that no other operation faults and none is refused. -/
theorem stuckEvents : Obligations.StuckEvents := by
  refine fun i s => ⟨⟨?_, ?_⟩, exec_fault_iff i, exec_ne_refused i s⟩
  · rintro b rfl hbusy
    exact execRxByte_of_busy b hbusy
  · rintro rfl hnone
    exact if_pos hnone

/-! ### The pseudo-instruction `cmd` -/

/-- The decoder has taken a header and the bytes `p` of the payload after it (43_command_decoder.md R203), with no commit in
progress. -/
structure ReceivedPayload (p : List Byte) (s : State) : Prop where
  ready : s.commitIdx = commitNone
  decState : s.decState = if p.length = 9 then awaitTail else receivingPayload
  plCnt : s.plCnt.toNat = p.length
  bytes : ∀ k < p.length, p[k]? = some (Memory.read s.pl k)

/-- The header is received in AWAIT_HEADER, and the payload starts empty. -/
theorem exec_rxByte_header {s : State} (hready : s.commitIdx = commitNone) (hdec : s.decState = awaitHeader) :
    ∃ t, exec (.rxByte header) s = .next t ∧ ReceivedPayload [] t := by
  obtain ⟨t, ht⟩ := execRxByte_of_ready (b := header) hready (by rw [hdec]; nofun)
  refine ⟨t, ht, ?_⟩
  obtain ⟨_, hdecode⟩ := execRxByte_next ht
  obtain ⟨hd, _, _, hidx⟩ := detectByte_sameDecoder header s
  obtain ⟨h, _⟩ | ⟨h, _⟩ | ⟨_, _, rfl⟩ := decodeByte_cases hdecode
  · exact absurd (h.symm.trans (hd.trans hdec)) (by decide)
  · exact absurd (h.symm.trans (hd.trans hdec)) (by decide)
  · rw [if_pos (show header = 0x23#8 from rfl)]
    exact ⟨hidx.trans hready, rfl, rfl, nofun⟩

/-- One more payload byte is stored at its offset; the ninth makes the decoder wait for the tail. -/
theorem ReceivedPayload.snoc {p : List Byte} {s : State} (h : ReceivedPayload p s) (hp : p.length < 9) (b : Byte) :
    ∃ t, exec (.rxByte b) s = .next t ∧ ReceivedPayload (p ++ [b]) t := by
  obtain ⟨hready, hdec, hcnt, hbytes⟩ := h
  rw [if_neg (by omega)] at hdec
  obtain ⟨t, ht⟩ := execRxByte_of_ready (b := b) hready (fun _ => hcnt ▸ hp)
  refine ⟨t, ht, ?_⟩
  obtain ⟨_, hdecode⟩ := execRxByte_next ht
  obtain ⟨hd, hc, hpl, hidx⟩ := detectByte_sameDecoder b s
  obtain ⟨_, _, rfl⟩ | ⟨h, _⟩ | ⟨h, _⟩ := decodeByte_cases hdecode
  · refine ⟨hidx.trans hready, ?_, ?_, fun k hk => ?_⟩
    · simp only [hc, hcnt, List.length_append, List.length_singleton, Nat.reduceEqDiff]
    · rw [hc, BitVec.toNat_add, hcnt, List.length_append]
      exact Nat.mod_eq_of_lt (by simp; omega)
    · rw [List.length_append, List.length_singleton] at hk
      simp only [hc, hcnt, hpl, memWrite, Memory.read_write]
      by_cases hlast : k = p.length
      · subst hlast
        simp
      · rw [if_neg hlast, List.getElem?_append_left (by omega)]
        exact hbytes k (by omega)
  · exact absurd (h.symm.trans (hd.trans hdec)) (by decide)
  · exact absurd (hd.trans hdec) h

/-- The tail after nine payload bytes starts the commit and leaves the payload as it was (43_command_decoder.md R203). -/
theorem ReceivedPayload.exec_tail {p : List Byte} {s : State} (h : ReceivedPayload p s) (hp : p.length = 9) :
    ∃ t, exec (.rxByte tail) s = .next t ∧ t.commitIdx = 0#4 ∧ t.decState = awaitHeader ∧ t.pl = s.pl := by
  obtain ⟨hready, hdec, _, _⟩ := h
  rw [if_pos hp] at hdec
  obtain ⟨t, ht⟩ := execRxByte_of_ready (b := tail) hready (by rw [hdec]; nofun)
  refine ⟨t, ht, ?_⟩
  obtain ⟨_, hdecode⟩ := execRxByte_next ht
  obtain ⟨hd, _, hpl, _⟩ := detectByte_sameDecoder tail s
  obtain ⟨h, _⟩ | ⟨_, rfl⟩ | ⟨_, h, _⟩ := decodeByte_cases hdecode
  · exact absurd (h.symm.trans (hd.trans hdec)) (by decide)
  · exact ⟨rfl, rfl, hpl⟩
  · exact absurd (hd.trans hdec) h

theorem runInstrs_header_payload {s : State} (hready : s.commitIdx = commitNone) (hdec : s.decState = awaitHeader)
    (p : List Byte) (hp : p.length ≤ 9) :
    ∃ t, runInstrs ((header :: p).map .rxByte) s = .next t ∧ ReceivedPayload p t := by
  induction p using List.reverseRecOn with
  | nil =>
    obtain ⟨t, ht, hrec⟩ := exec_rxByte_header hready hdec
    exact ⟨t, runInstrs_cons ht [], hrec⟩
  | append_singleton p b ih =>
    rw [List.length_append, List.length_singleton] at hp
    obtain ⟨t, hrun, hrec⟩ := ih (by omega)
    obtain ⟨u, hstep, hrec'⟩ := hrec.snoc (by omega) b
    refine ⟨u, ?_, hrec'⟩
    rw [← List.cons_append, List.map_append]
    exact runInstrs_snoc hrun hstep

/-- A frame received in AWAIT_HEADER is accepted whole and starts a commit of its nine payload bytes
(43_command_decoder.md R207). -/
theorem runInstrs_frame {s : State} (hready : s.commitIdx = commitNone) (hdec : s.decState = awaitHeader)
    {p : List Byte} (hp : p.length = 9) : ∃ t, runInstrs ((header :: p ++ [tail]).map .rxByte) s = .next t ∧
      t.commitIdx = 0#4 ∧ t.decState = awaitHeader ∧ ∀ k < 9, p[k]? = some (Memory.read t.pl k) := by
  obtain ⟨t, hrun, hrec⟩ := runInstrs_header_payload hready hdec p (by omega)
  obtain ⟨u, hstep, hidx, hd, hpl⟩ := hrec.exec_tail hp
  refine ⟨u, ?_, hidx, hd, fun k hk => ?_⟩
  · rw [List.map_append]
    exact runInstrs_snoc hrun hstep
  · rw [hpl]
    exact hrec.bytes k (hp ▸ hk)

/-- The payload of `frame t0 … b3` (30_encoding.md R118). -/
def tracePayload (t : PerAxis Int) (f : Byte) (b : PerAxis Int) : List Byte :=
  [t.a, t.b, t.c, t.d].map (BitVec.ofInt 8) ++ f :: [b.a, b.b, b.c, b.d].map (BitVec.ofInt 8)

theorem traceFrame_eq (t : PerAxis Int) (f : Byte) (b : PerAxis Int) :
    traceFrame t f b = (header :: tracePayload t f b ++ [tail]).map .rxByte := rfl

theorem tracePayload_target (t : PerAxis Int) (f : Byte) (b : PerAxis Int) (i : Axis) :
    (tracePayload t f b)[i.index]? = some (BitVec.ofInt 8 (t.get i)) := by
  cases i <;> rfl

theorem tracePayload_bias (t : PerAxis Int) (f : Byte) (b : PerAxis Int) (i : Axis) :
    (tracePayload t f b)[5 + i.index]? = some (BitVec.ofInt 8 (b.get i)) := by
  cases i <;> rfl

/-- Settles O43: the frame leaves its bytes in `pl` and starts the commit, and nine COMMIT_STEPs write every field from
them. -/
theorem cmdPseudoInstruction : Obligations.CmdPseudoInstruction := by
  intro targets biases f s hrange hdec hready
  obtain ⟨u, hframe, hidx, _, hbytes⟩ := runInstrs_frame hready hdec (p := tracePayload targets f biases) rfl
  obtain ⟨t, hcommit, ht⟩ := runInstrs_commitSteps hidx 9 le_rfl
  refine ⟨t, ?_, ht.commitIdx, ?_, fun i => ?_⟩
  · rw [traceCmd, traceFrame_eq, runInstrs_append, hframe]
    exact hcommit
  · rw [ht.rampEn, if_pos (by decide), ← Option.some.inj (hbytes 4 (by decide))]
  · have hi := axis_index_le i
    have htarget := Option.some.inj ((tracePayload_target targets f biases i).symm.trans (hbytes _ (by omega)))
    have hbias := Option.some.inj ((tracePayload_bias targets f biases i).symm.trans (hbytes _ (by omega)))
    obtain ⟨hrt, hrb⟩ := hrange i
    rw [ht.axis]
    simp only [show i.index < 9 by omega, show 5 + i.index < 9 by omega, if_true, ← htarget, ← hbias]
    exact ⟨toInt_ofInt_of_inSigned (by decide) hrt, toInt_ofInt_of_inSigned (by decide) hrb⟩

/-! ### The telemetry round trip -/

/-- A multi-byte read depends on the bytes it covers only. -/
theorem memRead_congr (n : Nat) : ∀ (off : Nat) {m m' : Memory},
    (∀ k < n, Memory.read m (off + k) = Memory.read m' (off + k)) → memRead m off n = memRead m' off n := by
  induction n with
  | zero => exact fun _ _ _ _ => rfl
  | succ n ih =>
    intro off m m' h
    have htail : memRead m (off + 1) n = memRead m' (off + 1) n := ih (off + 1) fun k hk => by
      simpa only [Nat.add_assoc, Nat.add_comm 1 k] using h (k + 1) (by omega)
    have hhead : Memory.read m off = Memory.read m' off := h 0 (by omega)
    rw [memRead, memRead, hhead, htail]

/-- A field whose bytes are those of `v` reads as `v` modulo 2^(8n) (00_scope.md R15). -/
theorem memRead_of_bytes (n : Nat) {m : Memory} {off : Nat} {v : Int}
    (h : ∀ k < n, Memory.read m (off + k) = BitVec.ofInt 8 (v / 256 ^ k)) : (memRead m off n : Int) = v % 256 ^ n := by
  rw [← memRead_memWrite n m off v, memRead_congr n off (m' := memWrite m off n v)]
  intro k hk
  rw [h k hk, read_memWrite, if_pos (by omega), Nat.add_sub_cancel_left]

theorem axisOfIndex_index (i : Axis) : axisOfIndex i.index = i := (axisOfIndex_eq_iff (axis_index_le i) i).2 rfl

/-- The target field of axis `i` (30_encoding.md R105). -/
theorem memRead_assembledBuffer_target (s : State) (i : Axis) :
    (memRead (assembledBuffer s) (1 + 2 * i.index) 2 : Int) = (s.axis i).target.toInt % 256 ^ 2 := by
  have hi := axis_index_le i
  have hrange := inSigned_mono (show 8 ≤ 16 by decide) (toInt_inSigned (s.axis i).target)
  refine memRead_of_bytes 2 fun k hk => ?_
  rw [read_assembledBuffer, if_neg (by omega), if_pos (by omega), show (1 + 2 * i.index + k - 1) / 2 = i.index by omega,
    show (1 + 2 * i.index + k - 1) % 2 = k by omega, axisOfIndex_index, sext_of_inSigned (by decide) hrange]

/-- The position field of axis `i` (30_encoding.md R105). -/
theorem memRead_assembledBuffer_position (s : State) (i : Axis) :
    (memRead (assembledBuffer s) (9 + 4 * i.index) 4 : Int) = (s.axis i).pos.toInt % 256 ^ 4 := by
  have hi := axis_index_le i
  refine memRead_of_bytes 4 fun k hk => ?_
  rw [read_assembledBuffer, if_neg (by omega), if_neg (by omega), if_pos (by omega),
    show (9 + 4 * i.index + k - 9) / 4 = i.index by omega, show (9 + 4 * i.index + k - 9) % 4 = k by omega,
    axisOfIndex_index]

/-- The speed field of axis `i` (30_encoding.md R105). -/
theorem memRead_assembledBuffer_speed (s : State) (i : Axis) :
    (memRead (assembledBuffer s) (25 + 4 * i.index) 4 : Int) = sext 32 (s.axis i).lastDelta % 256 ^ 4 := by
  have hi := axis_index_le i
  refine memRead_of_bytes 4 fun k hk => ?_
  rw [read_assembledBuffer, if_neg (by omega), if_neg (by omega), if_neg (by omega), if_pos (by omega),
    show (25 + 4 * i.index + k - 25) / 4 = i.index by omega, show (25 + 4 * i.index + k - 25) % 4 = k by omega,
    axisOfIndex_index]

/-- A field that holds `v` modulo 2^n, read as a signed n-bit number, gives back `v` in the signed range. -/
theorem toInt_ofNat_of_inSigned {n m : Nat} (hn : 1 ≤ n) {v : Int} (h : (m : Int) = v % 2 ^ n) (hv : InSigned n v) :
    (BitVec.ofNat n m).toInt = v := by
  have hcast : (2 : Int) ^ n = ((2 ^ n : Nat) : Int) := by push_cast; rfl
  rw [BitVec.toInt_ofNat', h, hcast, Int.emod_bmod, ← sext_eq_bmod hn, sext_of_inSigned hn hv]

theorem exec_telTick_completes (acc : Bool) (s : State) : ∃ t, exec (.telTick acc) s = .next t := by
  obtain ⟨_, h⟩ | ⟨_, _, h⟩ | ⟨_, _, h⟩ := execTelTick_cases acc s <;> exact ⟨_, h⟩

/-- Settles O49: each field holds its value modulo a power of 2 wide enough for it; a delta of CNT_W bits fits the int32. -/
theorem telemetryRoundTrip : Obligations.TelemetryRoundTrip := by
  intro acc s hc hdelta hidle
  obtain ⟨_, hw, _⟩ := (configLegal_iff _).1 hc
  obtain ⟨t, ht⟩ := exec_telTick_completes acc s
  have htxbuf : t.txbuf = assembledBuffer s := by
    obtain ⟨_, h⟩ := exec_transmitter ht
    simpa [txbufAfter, hidle] using h
  refine ⟨t, ht, fun i => ?_⟩
  have hspeed : InSigned 32 (s.axis i).lastDelta := inSigned_mono hw (hdelta i)
  have htarget := inSigned_mono (show 8 ≤ 16 by decide) (toInt_inSigned (s.axis i).target)
  rw [htxbuf]
  refine ⟨?target, ?position, ?speed⟩
  case target => exact toInt_ofNat_of_inSigned (by decide) (memRead_assembledBuffer_target s i) htarget
  case position =>
    exact toInt_ofNat_of_inSigned (by decide) (memRead_assembledBuffer_position s i) (toInt_inSigned _)
  case speed =>
    refine toInt_ofNat_of_inSigned (by decide) ?_ hspeed
    rw [memRead_assembledBuffer_speed, sext_of_inSigned (by decide) hspeed]
    rfl

/-! ### The worked encodings -/

/-- Settles O1: a finite table of concrete lines; the word of each event is computed, and decodes by the inverse law. -/
theorem workedEventWords : Obligations.WorkedEventWords := by
  intro r hr
  have hencode : r.2.1.wellFormed = true ∧ encode r.2.1 = some r.2.2 := by
    revert r
    decide
  refine ⟨?_, hencode.2, decode_ok_iff_encode.2 hencode⟩
  clear hencode
  revert r
  decide

end Sys2Proof.Machine
end

section
/-! Proofs for 40_encoder_tracker.md: the results of ENC_ADD, SAMPLE, RESET_ALL and POS_READ (R141, R142, R144, R145), the
range in which a delta is the true movement (R143), and the position as the sum of the per-sample quotients (R146). -/

namespace Sys2Proof.Machine

open Sys2Proof

/-! ### The four operations -/

theorem exec_encAdd (i : Axis) (k : Int) (s : State) :
    exec (.encAdd i k) s = .next (s.setCnt i (counterValue s.cfg.cntW ((s.cnt.get i : Int) + k))) := rfl

/-- The word of ENC_ADD from its fields: the increment is its data in two's complement (30_encoding.md R112). -/
theorem decode_eventWord_encAdd (i : Axis) (d : BitVec 16) :
    decode (eventWord 0x9#4 (fieldOfAxis i) d) = .ok (.encAdd i d.toInt) := by
  rw [decode_ok_iff_carries]
  exact ⟨fixedBits_iff.2 (by simp [BitVec.ushiftRight_eq_zero]), by simp, by simp⟩

/-- Settles O10: the written value is `counterValue`, and the word is the one of its fields. -/
theorem encAddResult : Obligations.EncAddResult :=
  ⟨exec_encAdd, decode_eventWord_encAdd⟩

/-- Settles O11: `sampleAxis_eq` in the terms of the library. -/
theorem sampleResult : Obligations.SampleResult := by
  intro i s hw
  rw [exec, execSample, sampleAxis_eq, sext_eq_bmod hw, wrap32_eq, tdiv_eq]

/-- Settles O12: RESET_ALL writes the bank only, and there the positions only (`zeroPositions_axis`). -/
theorem resetAllResult : Obligations.ResetAllResult :=
  fun s => ⟨zeroPositions s, rfl, zeroPositions_axis s, rfl⟩

/-- Settles O13: POS_READ is one output event, and its word is the one the encoder writes. -/
theorem posReadResult : Obligations.PosReadResult := by
  refine fun i => ⟨fun s => rfl, decode_ok_iff_encode.2 ⟨rfl, ?_⟩⟩
  cases i <;> rfl

/-! ### The interval between two samples -/

/-- The balanced remainder modulo 2^n keeps exactly the values of the signed n-bit range. -/
theorem bmod_two_pow_eq_self_iff {n : Nat} (hn : 1 ≤ n) (v : Int) : Int.bmod v (2 ^ n) = v ↔ InSigned n v := by
  rw [← sext_eq_bmod hn]
  exact ⟨fun h => h ▸ sext_inSigned hn v, sext_of_inSigned hn⟩

/-- A counter stays congruent to its start plus the movements, whatever wraps between (40_encoder_tracker.md R141). -/
theorem bmod_counterValue_add (n : Nat) (v w : Int) :
    Int.bmod ((counterValue n v : Int) + w) (2 ^ n) = Int.bmod (v + w) (2 ^ n) := by
  have hcast : (2 : Int) ^ n = ((2 ^ n : Nat) : Int) := by push_cast; rfl
  rw [counterValue_cast, hcast, Int.emod_add_bmod]

/-- After any list of movements the counter is their sum added to its start, modulo 2^CNT_W. -/
theorem runInstrs_encAdds (i : Axis) (moves : List Int) (s : State) :
    ∃ t, runInstrs (moves.map (.encAdd i)) s = .next t ∧ t.cfg = s.cfg ∧ t.axes = s.axes ∧
      Int.bmod (t.cnt.get i) (2 ^ s.cfg.cntW) = Int.bmod (s.cnt.get i + moves.sum) (2 ^ s.cfg.cntW) := by
  induction moves generalizing s with
  | nil => exact ⟨s, rfl, rfl, rfl, by simp⟩
  | cons k moves ih =>
    obtain ⟨t, hrun, hcfg, haxes, hcnt⟩ := ih (s.setCnt i (counterValue s.cfg.cntW ((s.cnt.get i : Int) + k)))
    refine ⟨t, (runInstrs_cons (exec_encAdd i k s) _).trans hrun, hcfg, haxes, ?_⟩
    rw [State.setCnt_cfg, State.setCnt_cnt, PerAxis.get_set_self, bmod_counterValue_add] at hcnt
    rw [hcnt, List.sum_cons, Int.add_assoc]

/-- What one sample adds to the position after a movement `k` since the clear: the delta's quotient, truncated toward zero
(40_encoder_tracker.md R142). -/
def sampleQuotient (c : Config) (k : Int) : Int := Int.tdiv (Int.bmod k (2 ^ c.cntW)) c.posDiv

/-- One interval between two samples, from a cleared counter: any movements of axis `i`, then SAMPLE, which clears it again.
The delta and the position see the sum of the movements only (40_encoder_tracker.md R142). -/
theorem runInstrs_encAdds_sample (i : Axis) (moves : List Int) {s : State} (hw : 1 ≤ s.cfg.cntW)
    (hzero : s.cnt.get i = 0) :
    ∃ t, runInstrs (moves.map (.encAdd i) ++ [.sample i]) s = .next t ∧ t.cfg = s.cfg ∧ t.cnt.get i = 0 ∧
      (t.axis i).lastDelta = Int.bmod moves.sum (2 ^ s.cfg.cntW) ∧
      (t.axis i).pos = (s.axis i).pos + BitVec.ofInt 32 (sampleQuotient s.cfg moves.sum) := by
  obtain ⟨t, hrun, hcfg, haxes, hcnt⟩ := runInstrs_encAdds i moves s
  rw [hzero, Nat.cast_zero, Int.zero_add] at hcnt
  refine ⟨_, runInstrs_snoc hrun (sampleResult i t (by rwa [hcfg])), hcfg, ?_⟩
  simp [State.axis, haxes, hcfg, hcnt, sampleQuotient, BitVec.ofInt_add]

/-- Settles O33: the delta is the balanced remainder of the interval's movement, which keeps exactly the signed range. -/
theorem sampleAliasRange : Obligations.SampleAliasRange := by
  intro i moves s hc hzero
  obtain ⟨hw, _⟩ := (configLegal_iff _).1 hc
  obtain ⟨t, hrun, _, _, hdelta, _⟩ := runInstrs_encAdds_sample i moves (by omega) hzero
  refine ⟨t, hrun, hdelta, ?range, ?multiple⟩
  case range => rw [hdelta, bmod_two_pow_eq_self_iff (by omega), Int.le_sub_one_iff]
  case multiple =>
    have hdvd := Int.dvd_bmod_sub_self (x := moves.sum) (m := 2 ^ s.cfg.cntW)
    rw [hdelta]
    exact_mod_cast hdvd

/-! ### The position as a sum of quotients -/

/-- Each interval adds its own quotient to the wrapping position; no remainder is carried into the next one. -/
theorem runInstrs_intervals_pos (i : Axis) (moves : List Int) {s : State} (hw : 1 ≤ s.cfg.cntW)
    (hzero : s.cnt.get i = 0) :
    ∃ t, runInstrs (moves.flatMap fun k => [.encAdd i k, .sample i]) s = .next t ∧
      (t.axis i).pos = (s.axis i).pos + BitVec.ofInt 32 (moves.map (sampleQuotient s.cfg)).sum := by
  induction moves generalizing s with
  | nil => exact ⟨s, rfl, by simp⟩
  | cons k moves ih =>
    obtain ⟨t, hround, hcfg, hclear, _, hpos⟩ := runInstrs_encAdds_sample i [k] hw hzero
    obtain ⟨u, hrun, hpos'⟩ := ih (hcfg ▸ hw) hclear
    refine ⟨u, ?_, ?_⟩
    · rw [List.flatMap_cons, runInstrs_append, show runInstrs [.encAdd i k, .sample i] s = .next t from hround]
      exact hrun
    · rw [List.sum_singleton] at hpos
      rw [hpos', hpos, hcfg, List.map_cons, List.sum_cons, BitVec.ofInt_add, BitVec.add_assoc]

/-- Settles O34, by induction on the intervals (`runInstrs_intervals_pos`). -/
theorem positionSumsQuotients : Obligations.PositionSumsQuotients := by
  intro i moves s hc hzero hpos
  obtain ⟨hw, _⟩ := (configLegal_iff _).1 hc
  obtain ⟨t, hrun, hsum⟩ := runInstrs_intervals_pos i moves (by omega) hzero
  rw [hpos, BitVec.zero_add] at hsum
  exact ⟨t, hrun, hsum⟩

end Sys2Proof.Machine
end

section
/-! Proofs for 41_pid.md: the result of one PID_STEP (R161), its bounds (R163), and runs of PID_STEPs with the same error:
zero error (R164) and constant error (R165). -/

namespace Sys2Proof.Machine

open Sys2Proof

/-! ### One step -/

/-- The record of axis `i` after one PID_STEP with error `e`: the setpoint and the measured value enter the law through
their difference only (41_pid.md R161). -/
def pidRecord (c : Config) (i : Axis) (e : Int) (a : AxisState) : AxisState :=
  let integ := clamp (a.integ + e) (-c.integralLimit) c.integralLimit
  let raw := tdiv (c.kp.get i * e + c.ki.get i * integ + c.kd.get i * (e - a.prevErr)) c.scale
  { a with integ := integ, out := clamp raw (-c.outputLimit) c.outputLimit, prevErr := e }

theorem exec_pidStep (i : Axis) (sp meas : Int) (s : State) :
    exec (.pidStep i sp meas) s = .next (s.setAxis i (pidRecord s.cfg i (sp - meas) (s.axis i))) := by
  rw [exec, execPidStep, pidAxis_eq]
  rfl

theorem pidRecord_integ (c : Config) (i : Axis) (e : Int) (a : AxisState) :
    (pidRecord c i e a).integ = clamp (a.integ + e) (-c.integralLimit) c.integralLimit := rfl

/-- The new output reads the integral and the previous error of the record, and nothing else of it (41_pid.md R163). -/
theorem pidRecord_out_congr (c : Config) (i : Axis) (e : Int) {a b : AxisState} (hinteg : b.integ = a.integ)
    (hprev : b.prevErr = a.prevErr) : (pidRecord c i e b).out = (pidRecord c i e a).out := by
  simp only [pidRecord, hinteg, hprev]

/-- Settles O14: `pidRecord` in the terms of the library. -/
theorem pidStepResult : Obligations.PidStepResult := by
  intro i sp meas s hint hout
  rw [exec_pidStep, pidRecord, clamp_eq hint, clamp_eq hout, tdiv_eq]
  rfl

/-- Settles O36: both values are clamped to their limits, and the law reads no more of a state than the configuration, the
integral and the previous error. -/
theorem pidBounds : Obligations.PidBounds := by
  intro i sp meas s hc
  obtain ⟨_, _, _, _, hint, hout, _⟩ := (configLegal_iff _).1 hc
  refine ⟨_, exec_pidStep i sp meas s, ?_⟩
  rw [State.setAxis_axis_self]
  refine ⟨clamp_within hint _, clamp_within hout _, fun s' hcfg hinteg hprev => ⟨_, exec_pidStep i sp meas s', ?_⟩⟩
  rw [State.setAxis_axis_self, hcfg]
  exact pidRecord_out_congr s.cfg i _ hinteg hprev

/-! ### Runs with the same error -/

/-- PID_STEPs of one axis with the same error iterate `pidRecord` on its record, whatever setpoints make the error. -/
theorem runInstrs_pidSteps (i : Axis) (e : Int) (inputs : List (Int × Int)) (s : State)
    (herror : ∀ p ∈ inputs, p.1 - p.2 = e) :
    ∃ t, runInstrs (inputs.map fun p => .pidStep i p.1 p.2) s = .next t ∧
      t.axis i = (pidRecord s.cfg i e)^[inputs.length] (s.axis i) := by
  induction inputs generalizing s with
  | nil => exact ⟨s, rfl, rfl⟩
  | cons p inputs ih =>
    obtain ⟨hp, hrest⟩ := List.forall_mem_cons.1 herror
    obtain ⟨t, hrun, haxis⟩ := ih (s.setAxis i (pidRecord s.cfg i e (s.axis i))) hrest
    refine ⟨t, (runInstrs_cons (hp ▸ exec_pidStep i p.1 p.2 s) _).trans hrun, ?_⟩
    rw [haxis, State.setAxis_cfg, State.setAxis_axis_self, List.length_cons, Function.iterate_succ_apply]

/-- A step without error from a zero PID state writes 0 to the output and leaves the PID state zero (41_pid.md R164). -/
theorem pidRecord_zero {c : Config} (hint : 0 ≤ c.integralLimit) (hout : 0 ≤ c.outputLimit) (i : Axis) {a : AxisState}
    (hinteg : a.integ = 0) (hprev : a.prevErr = 0) : pidRecord c i 0 a = { a with integ := 0, out := 0, prevErr := 0 } := by
  simp [pidRecord, hinteg, hprev, clamp_eq hint, clamp_eq hout, tdiv_eq, hint, hout]

theorem iterate_pidRecord_zero {c : Config} (hint : 0 ≤ c.integralLimit) (hout : 0 ≤ c.outputLimit) (i : Axis)
    {a : AxisState} (hinteg : a.integ = 0) (hprev : a.prevErr = 0) (n : Nat) :
    ((pidRecord c i 0)^[n] a).integ = 0 ∧ ((pidRecord c i 0)^[n] a).prevErr = 0 ∧
      (n ≠ 0 → ((pidRecord c i 0)^[n] a).out = 0) := by
  induction n with
  | zero => exact ⟨hinteg, hprev, absurd rfl⟩
  | succ n ih =>
    obtain ⟨hinteg', hprev', _⟩ := ih
    rw [Function.iterate_succ_apply', pidRecord_zero hint hout i hinteg' hprev']
    exact ⟨rfl, rfl, fun _ => rfl⟩

/-- Settles O37, by induction on the number of steps (`iterate_pidRecord_zero`). -/
theorem pidZeroError : Obligations.PidZeroError := by
  intro i values s hc hinteg hprev
  obtain ⟨_, _, _, _, hint, hout, _⟩ := (configLegal_iff _).1 hc
  obtain ⟨t, hrun, haxis⟩ := runInstrs_pidSteps i 0 (values.map fun v => (v, v)) s (by simp)
  rw [List.map_map] at hrun
  rw [List.length_map] at haxis
  obtain ⟨hinteg', hprev', hout'⟩ := iterate_pidRecord_zero hint hout i hinteg hprev values.length
  rw [← haxis] at hinteg' hprev' hout'
  exact ⟨t, hrun, hinteg', hprev', fun h => hout' (mt List.length_eq_zero_iff.1 h)⟩

/-- Steps of the same error from integral 0 clamp their sum once: it does not change sign, so no clamp before the last
loses anything (41_pid.md R165). -/
theorem iterate_pidRecord_integ {c : Config} (hint : 0 ≤ c.integralLimit) (i : Axis) (e : Int) {a : AxisState}
    (hzero : a.integ = 0) (n : Nat) :
    ((pidRecord c i e)^[n] a).integ = clamp (n * e) (-c.integralLimit) c.integralLimit := by
  induction n with
  | zero => simp [clamp_eq hint, hzero, hint]
  | succ n ih =>
    rw [Function.iterate_succ_apply', pidRecord_integ, ih, Nat.cast_succ, add_one_mul]
    simp only [clamp_eq hint]
    obtain he | he := le_total 0 e
    · have hsum : 0 ≤ (n : Int) * e := mul_nonneg n.cast_nonneg he
      omega
    · have hsum : (n : Int) * e ≤ 0 := mul_nonpos_of_nonneg_of_nonpos n.cast_nonneg he
      omega

/-- The rounded-up quotient is the first number of steps whose sum reaches the limit. -/
theorem roundedUp_le_iff {e : Int} (he : 0 < e) (limit n : Int) : (limit + e - 1) / e ≤ n ↔ limit ≤ n * e := by
  rw [← Int.lt_add_one_iff, Int.ediv_lt_iff_lt_mul he, add_one_mul]
  omega

/-- Settles O38: the clamped sum of the errors (`iterate_pidRecord_integ`), on the side of its sign. -/
theorem pidConstantError : Obligations.PidConstantError := by
  intro i e inputs s hc hzero herror
  obtain ⟨_, _, _, _, hint, _⟩ := (configLegal_iff _).1 hc
  obtain ⟨t, hrun, haxis⟩ := runInstrs_pidSteps i e inputs s herror
  refine ⟨t, hrun, ?_⟩
  rw [haxis, iterate_pidRecord_integ hint i e hzero, clamp_eq hint]
  refine ⟨fun he => ?positive, fun he => ?negative⟩
  case positive =>
    have hsum : 0 ≤ (inputs.length : Int) * e := mul_nonneg (Nat.cast_nonneg _) he.le
    rw [roundedUp_le_iff he]
    omega
  case negative =>
    have hsum : (inputs.length : Int) * e ≤ 0 := mul_nonpos_of_nonneg_of_nonpos (Nat.cast_nonneg _) he.le
    rw [sub_eq_add_neg s.cfg.integralLimit e, roundedUp_le_iff (neg_pos.2 he), mul_neg]
    omega

end Sys2Proof.Machine
end

section
/-! Proofs for 42_ramp.md: the result of one RAMP_ADVANCE (R181), the ramp after n enabled calls toward a constant goal
(R183), and the native results on the way (R184). -/

namespace Sys2Proof.Machine

open Sys2Proof

/-! ### Moving toward a goal -/

/-- The value nearest to `g` within the distance `k` of `r`: where a ramp at `r` stands after moving `k` toward the goal
`g` without passing it. -/
def moveToward (g k r : Int) : Int := max (r - k) (min g (r + k))

theorem moveToward_of_le {g k r : Int} (hk : 0 ≤ k) (h : r ≤ g) : moveToward g k r = min g (r + k) := by
  unfold moveToward
  omega

theorem moveToward_of_ge {g k r : Int} (hk : 0 ≤ k) (h : g ≤ r) : moveToward g k r = max g (r - k) := by
  unfold moveToward
  omega

/-- Two moves toward one goal are one move of both distances. -/
theorem moveToward_moveToward {j k : Int} (hj : 0 ≤ j) (hk : 0 ≤ k) (g r : Int) :
    moveToward g k (moveToward g j r) = moveToward g (j + k) r := by
  unfold moveToward
  omega

theorem moveToward_eq_goal_iff {g k r : Int} (hk : 0 ≤ k) : moveToward g k r = g ↔ |g - r| ≤ k := by
  rw [moveToward, abs_le]
  omega

theorem abs_moveToward_sub_le {k : Int} (hk : 0 ≤ k) (g r : Int) : |moveToward g k r - r| ≤ k := by
  rw [moveToward, abs_le]
  omega

/-- From below the goal a longer move ends higher, and none ends past the goal (42_ramp.md R183). -/
theorem moveToward_mono_of_le {g j k r : Int} (hj : 0 ≤ j) (hjk : j ≤ k) (h : r ≤ g) :
    moveToward g j r ≤ moveToward g k r ∧ moveToward g k r ≤ g := by
  rw [moveToward_of_le hj h, moveToward_of_le (hj.trans hjk) h]
  omega

/-- From above the goal a longer move ends lower, and none ends past the goal (42_ramp.md R183). -/
theorem moveToward_anti_of_ge {g j k r : Int} (hj : 0 ≤ j) (hjk : j ≤ k) (h : g ≤ r) :
    moveToward g k r ≤ moveToward g j r ∧ g ≤ moveToward g k r := by
  rw [moveToward_of_ge hj h, moveToward_of_ge (hj.trans hjk) h]
  omega

/-! ### One call -/

theorem exec_rampAdvance (i : Axis) (t : Int) (en : Bool) (s : State) :
    exec (.rampAdvance i t en) s =
      .next (s.setAxis i { s.axis i with ramp := rampRecord s.cfg t en (s.axis i).ramp }) := rfl

theorem rampRecord_disabled (c : Config) (t r : Int) : rampRecord c t false r = t * c.res := rfl

/-- The snap within one step and the step otherwise are one move of RAMP_STEP toward the goal (42_ramp.md R181). -/
theorem rampRecord_enabled {c : Config} (hstep : 1 ≤ c.rampStep) (t r : Int) :
    rampRecord c t true r = moveToward (t * c.res) c.rampStep r := by
  simp only [rampRecord, moveToward, Bool.true_eq_false, if_false]
  generalize t * c.res = g
  split
  case isTrue hnear => omega
  case isFalse hfar =>
    obtain hlt | hge := lt_or_ge r g
    · rw [Int.sign_eq_one_of_pos (sub_pos.2 hlt)]
      omega
    · rw [Int.sign_eq_neg_one_of_neg (by omega)]
      omega

/-- Settles O15: enabled, the call is a move of RAMP_STEP toward the goal (`rampRecord_enabled`), which the statement splits
by the distance and its sign. -/
theorem rampAdvanceResult : Obligations.RampAdvanceResult := by
  intro i t en s hstep a g
  suffices h : rampRecord s.cfg t en a.ramp = if en = false ∨ |g - a.ramp| < s.cfg.rampStep then g
      else if a.ramp < g then a.ramp + s.cfg.rampStep else a.ramp - s.cfg.rampStep by
    rw [← h]
    exact exec_rampAdvance i t en s
  cases en with
  | false => rw [rampRecord_disabled, if_pos (.inl rfl)]
  | true =>
    simp only [rampRecord_enabled hstep, moveToward, Bool.true_eq_false, false_or, abs_lt]
    split_ifs <;> omega

/-! ### Runs toward a constant goal -/

/-- Enabled calls toward one goal move the ramp RAMP_STEP times their number toward it (42_ramp.md R183). -/
theorem runInstrs_rampAdvances (i : Axis) (t : Int) {s : State} (hstep : 1 ≤ s.cfg.rampStep) (n : Nat) :
    ∃ u, runInstrs (List.replicate n (.rampAdvance i t true)) s = .next u ∧ u.cfg = s.cfg ∧
      (u.axis i).ramp = moveToward (t * s.cfg.res) (n * s.cfg.rampStep) (s.axis i).ramp := by
  induction n with
  | zero => exact ⟨s, rfl, rfl, by unfold moveToward; omega⟩
  | succ n ih =>
    obtain ⟨u, hrun, hcfg, hramp⟩ := ih
    have hn : 0 ≤ (n : Int) * s.cfg.rampStep := by positivity
    have hrun' := runInstrs_snoc hrun (exec_rampAdvance i t true u)
    rw [← List.replicate_succ'] at hrun'
    refine ⟨_, hrun', hcfg, ?_⟩
    rw [State.setAxis_axis_self, hcfg, rampRecord_enabled hstep, hramp, moveToward_moveToward hn (by omega),
      Nat.cast_succ, add_one_mul]

/-- Settles O40: the run is one move of n · RAMP_STEP toward the goal (`runInstrs_rampAdvances`), and the call after it one
of RAMP_STEP more. -/
theorem rampReachesGoal : Obligations.RampReachesGoal := by
  intro i t n s hc g r
  obtain ⟨_, _, _, _, _, _, _, hstep, _⟩ := (configLegal_iff _).1 hc
  obtain ⟨u, hrun, hcfg, hu⟩ := runInstrs_rampAdvances i t hstep n
  have hn : 0 ≤ (n : Int) * s.cfg.rampStep := by positivity
  refine ⟨u, _, hrun, exec_rampAdvance i t true u, ?_⟩
  rw [State.setAxis_axis_self, hcfg]
  dsimp only
  rw [rampRecord_enabled hstep]
  refine ⟨?closedForm, ?reaches, abs_moveToward_sub_le (by omega) g _, fun h => ?below, fun h => ?above⟩
  case closedForm =>
    rw [hu]
    split
    case isTrue h => exact moveToward_of_le hn h
    case isFalse h => exact moveToward_of_ge hn (le_of_not_ge h)
  case reaches => rw [hu, roundedUp_le_iff hstep, moveToward_eq_goal_iff hn]
  all_goals rw [hu, moveToward_moveToward hn (by omega)]
  case below => exact moveToward_mono_of_le hn (by omega) h
  case above => exact moveToward_anti_of_ge hn (by omega) h

/-- R184's own values: under REF, 1 to 4 moves of RAMP_STEP from 0 toward the goal of 100 native units. -/
theorem ref_nativeResults : ∀ p ∈ [((1 : Nat), (27 : Int)), (2, 55), (3, 82), (4, 100)],
    Int.tdiv (moveToward (100 * Config.ref.res) (p.1 * Config.ref.rampStep) 0) Config.ref.res = p.2 := by
  decide

/-- Settles O41: the division by RES, truncated toward zero, keeps the order of the ramps on the way
(`runInstrs_rampAdvances`) and undoes the multiplication at the goal. -/
theorem nativeSetpointMonotone : Obligations.NativeSetpointMonotone := by
  intro i s hc
  obtain ⟨_, _, _, _, _, _, hres, hstep, _⟩ := (configLegal_iff _).1 hc
  have hgoal (t : Int) : Int.tdiv (t * s.cfg.res) s.cfg.res = t := Int.mul_tdiv_cancel t (by omega)
  refine ⟨fun t n m hnm => ?monotone, fun t => ⟨_, exec_rampAdvance i t false s, ?disabled⟩,
    fun href hzero p hp => ?reference⟩
  case monotone =>
    obtain ⟨u, hrunU, _, hu⟩ := runInstrs_rampAdvances i t hstep n
    obtain ⟨v, hrunV, _, hv⟩ := runInstrs_rampAdvances i t hstep m
    have hn : 0 ≤ (n : Int) * s.cfg.rampStep := by positivity
    have hle : (n : Int) * s.cfg.rampStep ≤ m * s.cfg.rampStep :=
      mul_le_mul_of_nonneg_right (Nat.cast_le.2 hnm) (by omega)
    refine ⟨u, v, hrunU, hrunV, fun h => ?below, fun h => ?above, fun h => h ▸ hgoal t⟩
    all_goals rw [hu, hv]
    case below => exact Int.tdiv_le_tdiv (by omega) (moveToward_mono_of_le hn hle h).1
    case above => exact Int.tdiv_le_tdiv (by omega) (moveToward_anti_of_ge hn hle h).1
  case disabled =>
    rw [State.setAxis_axis_self]
    exact hgoal t
  case reference =>
    obtain ⟨u, hrun, _, hu⟩ := runInstrs_rampAdvances i 100 hstep p.1
    refine ⟨u, hrun, ?_⟩
    rw [hu, hzero, href]
    exact ref_nativeResults p hp

end Sys2Proof.Machine
end

section
/-! Proofs for 43_command_decoder.md: the results of RX_BYTE, DET_STEP, DEC_STEP and COMMIT_STEP (R200 to R203, R206), the
one commit of a valid frame (R207), the lockout by a misaligned header (R205), and what the detector and the decoder see of
each other (R208). -/

namespace Sys2Proof.Machine

open Sys2Proof

/-! ### DET_STEP -/

theorem detectByte_of_trigger {b : Byte} {s : State} (h : s.win1 = 0x21#8 ∧ s.win2 = 0x40#8 ∧ b = 0x21#8) :
    detectByte b s = { zeroPositions s with win0 := 0x00#8, win1 := 0x00#8, win2 := 0x00#8 } := by
  rw [detectByte_eq, if_pos h]

theorem detectByte_of_no_trigger {b : Byte} {s : State} (h : ¬ (s.win1 = 0x21#8 ∧ s.win2 = 0x40#8 ∧ b = 0x21#8)) :
    detectByte b s = { s with win0 := s.win1, win1 := s.win2, win2 := b } := by
  rw [detectByte_eq, if_neg h]

/-- Settles O16. -/
theorem detStepResult : Obligations.DetStepResult := by
  refine fun b s => ⟨fun htrigger => ?_, fun hnone => congrArg _ (detectByte_of_no_trigger hnone)⟩
  refine ⟨detectByte b s, rfl, fun i => ?_, ?_⟩
  · rw [detectByte_axis, if_pos htrigger]
  · rw [detectByte_of_trigger htrigger]
    rfl

/-- The window after DET_STEP depends on the window before it and on the byte only. -/
theorem SameWindow.detectByte {s s' : State} (h : SameWindow s s') (b : Byte) :
    SameWindow (detectByte b s) (detectByte b s') := by
  obtain ⟨_, h1, h2⟩ := h
  simp only [detectByte_eq, h1, h2]
  split
  · exact ⟨rfl, rfl, rfl⟩
  · exact ⟨rfl, rfl, rfl⟩

/-! ### DEC_STEP -/

theorem decodeByte_of_receiving {s : State} (hd : s.decState = receivingPayload) (hp : s.plCnt.toNat < 9) (b : Byte) :
    decodeByte b s = .ok { s with
      pl := memWrite s.pl s.plCnt.toNat 1 (b.toNat : Int)
      plCnt := s.plCnt + 1#4
      decState := if s.plCnt.toNat = 8 then awaitTail else receivingPayload } := by
  obtain ⟨t, ht⟩ := decodeByte_ok (b := b) (fun _ => hp)
  obtain ⟨_, _, rfl⟩ | ⟨h, _⟩ | ⟨h, _⟩ := decodeByte_cases ht
  · exact ht
  · exact absurd (hd.symm.trans h) (by decide)
  · exact absurd hd h

theorem decodeByte_of_awaitTail {s : State} (hd : s.decState = awaitTail) (b : Byte) :
    decodeByte b s = .ok { s with
      commitIdx := if b = 0x21#8 then 0#4 else s.commitIdx
      decState := awaitHeader
      plCnt := 0#4 } := by
  rw [decodeByte, if_neg (by rw [hd]; decide), if_pos hd, tail]

/-- AWAIT_HEADER and the unused code 3 (10_state.md R41). -/
theorem decodeByte_of_awaitHeader {s : State} (hr : s.decState ≠ receivingPayload) (ht : s.decState ≠ awaitTail)
    (b : Byte) : decodeByte b s =
      .ok (if b = 0x23#8 then { s with decState := receivingPayload, plCnt := 0#4 } else s) := by
  rw [decodeByte, if_neg hr, if_neg ht, header]

theorem exec_decStep_of_decodeByte {b : Byte} {s t : State} (h : decodeByte b s = .ok t) :
    exec (.decStep b) s = .next t := by
  rw [exec, execDecStep, h, outcomeOf]

/-- Settles O17, one equation of DEC_STEP for each decoder state. -/
theorem decStepResult : Obligations.DecStepResult := by
  refine fun b s => ⟨fun hd hp => ?receiving, fun hd => ?awaitTail, fun hd => ?awaitHeader⟩
  case receiving =>
    refine ⟨memWrite s.pl s.plCnt.toNat 1 b.toNat, ?_, ?_, fun a ha => ?_⟩
    · rw [exec_decStep_of_decodeByte (decodeByte_of_receiving hd hp b), BitVec.ofNat_add, BitVec.ofNat_toNat,
        BitVec.setWidth_eq]
      simp only [Nat.reduceEqDiff, awaitTail, receivingPayload]
    · simp [memWrite, Memory.read_write]
    · simp [memWrite, Memory.read_write, ha]
  case awaitTail => exact exec_decStep_of_decodeByte (decodeByte_of_awaitTail hd b)
  case awaitHeader =>
    have hne : s.decState ≠ receivingPayload ∧ s.decState ≠ awaitTail := by
      obtain hd | hd := hd <;> rw [hd] <;> decide
    obtain ⟨hr, ht⟩ := hne
    exact exec_decStep_of_decodeByte (decodeByte_of_awaitHeader hr ht b)

/-! ### RX_BYTE -/

/-- DEC_STEP neither reads nor writes what DET_STEP does: the two commute (43_command_decoder.md R200). -/
theorem decodeByte_detectByte {b c : Byte} {s t : State} (h : decodeByte c s = .ok t) :
    decodeByte c (detectByte b s) = .ok (detectByte b t) := by
  obtain ⟨hd, hc, hpl, hidx⟩ := detectByte_sameDecoder b s
  obtain ⟨hr, hp, rfl⟩ | ⟨ht, rfl⟩ | ⟨hr, ht, rfl⟩ := decodeByte_cases h
  · rw [decodeByte_of_receiving (hd.trans hr) (by rwa [hc]), hpl, hc]
    simp only [detectByte_eq]
    split <;> rfl
  · rw [decodeByte_of_awaitTail (hd.trans ht), hidx]
    simp only [detectByte_eq]
    split <;> rfl
  · rw [decodeByte_of_awaitHeader (hd ▸ hr) (hd ▸ ht)]
    split
    · simp only [detectByte_eq]
      split <;> rfl
    · rfl

/-- RX_BYTE, while no commit is in progress, is DEC_STEP followed by DET_STEP. -/
theorem exec_rxByte_of_decodeByte {b : Byte} {s t : State} (hready : s.commitIdx = commitNone)
    (h : decodeByte b s = .ok t) : exec (.rxByte b) s = .next (detectByte b t) := by
  rw [exec, execRxByte, State.rxReady, decide_eq_true hready, if_pos rfl, decodeByte_detectByte h, outcomeOf]

/-- Settles O18. -/
theorem rxByteResult : Obligations.RxByteResult := by
  intro b s hready hpl
  obtain ⟨u, hu⟩ := decodeByte_ok (b := b) hpl
  refine ⟨detectByte b u, exec_rxByte_of_decodeByte hready hu, ?_, ?_⟩
  · rw [runInstrs_cons (t := detectByte b s) rfl]
    exact runInstrs_cons (exec_decStep_of_decodeByte (decodeByte_detectByte hu)) []
  · rw [runInstrs_cons (exec_decStep_of_decodeByte hu)]
    exact runInstrs_cons rfl []

/-- RX_BYTE leaves the window as DET_STEP does. -/
theorem exec_rxByte_sameWindow {b : Byte} {s t : State} (h : exec (.rxByte b) s = .next t) :
    SameWindow (detectByte b s) t := by
  obtain ⟨_, hdec⟩ := execRxByte_next h
  exact decodeByte_sameWindow hdec

theorem exec_rxByte_window {b : Byte} {s t : State} (h : exec (.rxByte b) s = .next t)
    (hnone : ¬ (s.win1 = 0x21#8 ∧ s.win2 = 0x40#8 ∧ b = 0x21#8)) : t.win1 = s.win2 ∧ t.win2 = b := by
  obtain ⟨_, h1, h2⟩ := exec_rxByte_sameWindow h
  rw [detectByte_of_no_trigger hnone] at h1 h2
  exact ⟨h1, h2⟩

theorem exec_rxByte_axis {b : Byte} {s t : State} (h : exec (.rxByte b) s = .next t) (i : Axis) : t.axis i =
    if s.win1 = 0x21#8 ∧ s.win2 = 0x40#8 ∧ b = 0x21#8 then { s.axis i with pos := 0#32 } else s.axis i := by
  obtain ⟨_, _, _, _, _, _, _, haxis⟩ := execRxByte_frame h
  exact haxis i

/-! ### COMMIT_STEP -/

/-- The write of a field leaves everything but the bank and the ramp-enable as it was. -/
theorem commitField_eq (k : Nat) (s : State) :
    commitField k s = { s with axes := (commitField k s).axes, rampEn := (commitField k s).rampEn } := by
  obtain ⟨_, h⟩ | ⟨_, h⟩ | ⟨_, _, h⟩ | ⟨_, h⟩ := commitField_cases k s <;> rw [h] <;> rfl

theorem nextCommitIdx_of_le : ∀ k : BitVec 4, k.toNat ≤ 8 →
    nextCommitIdx k = if k.toNat = 8 then 0xF#4 else BitVec.ofNat 4 (k.toNat + 1) := by
  decide

theorem commitIdx_pending {s : State} (h : s.commitIdx.toNat ≤ 8) : s.commitIdx ≠ commitNone := fun hnone => by
  simp [hnone, commitNone] at h

/-- Settles O19. -/
theorem commitStepResult : Obligations.CommitStepResult := by
  intro s hk
  refine ⟨_, exec_commitStep_of_pending (commitIdx_pending hk), commitField_axis _ s, ?_⟩
  rw [nextCommitIdx_of_le _ hk, commitField_eq, commitField_rampEn]

/-! ### The hold of the byte input -/

theorem commitIdxAt_toNat {k : BitVec 4} (hk : k.toNat ≤ 8) : commitIdxAt k.toNat = k := by
  rw [commitIdxAt, if_neg (by omega), BitVec.ofNat_toNat, BitVec.setWidth_eq]

theorem runInstrs_commitSteps_commitIdx {k : Nat} {s : State} (h : s.commitIdx = commitIdxAt k) (n : Nat)
    (hn : k + n ≤ 9) :
    ∃ t, runInstrs (List.replicate n .commitStep) s = .next t ∧ t.commitIdx = commitIdxAt (k + n) := by
  induction n with
  | zero => exact ⟨s, rfl, h⟩
  | succ n ih =>
    obtain ⟨t, hrun, ht⟩ := ih (by omega)
    obtain ⟨_, hpending, hnext⟩ := commitIdxAt_of_lt (k + n) (by omega)
    rw [← ht] at hpending hnext
    rw [List.replicate_succ']
    exact ⟨_, runInstrs_snoc hrun (exec_commitStep_of_pending hpending), hnext⟩

/-- Settles O45: the index counts the COMMIT_STEPs, and only the one after field 8 makes it NONE. -/
theorem readyWithinNineCommits : Obligations.ReadyWithinNineCommits := by
  intro s hk
  have hrun := runInstrs_commitSteps_commitIdx (commitIdxAt_toNat hk).symm
  refine ⟨?_, fun n hn => ?_⟩
  · obtain ⟨t, ht, hidx⟩ := hrun (9 - s.commitIdx.toNat) (by omega)
    refine ⟨t, ht, decide_eq_true ?_⟩
    rw [hidx, Nat.add_sub_cancel' (by omega)]
    rfl
  · obtain ⟨t, ht, hidx⟩ := hrun n (by omega)
    obtain ⟨_, hpending, _⟩ := commitIdxAt_of_lt (s.commitIdx.toNat + n) (by omega)
    exact ⟨t, ht, decide_eq_false (hidx ▸ hpending)⟩

/-! ### The command state -/

/-- `t` has the command state of `s` (00_scope.md R19). -/
structure SameCommand (s t : State) : Prop where
  rampEn : t.rampEn = s.rampEn
  axis : ∀ x, (t.axis x).target = (s.axis x).target ∧ (t.axis x).bias = (s.axis x).bias

theorem SameCommand.refl (s : State) : SameCommand s s := ⟨rfl, fun _ => ⟨rfl, rfl⟩⟩

theorem SameCommand.symm {s t : State} (h : SameCommand s t) : SameCommand t s :=
  ⟨h.rampEn.symm, fun x => (h.axis x).imp Eq.symm Eq.symm⟩

theorem SameCommand.trans {s t u : State} (h : SameCommand s t) (h' : SameCommand t u) : SameCommand s u where
  rampEn := h'.rampEn.trans h.rampEn
  axis x := ⟨(h'.axis x).1.trans (h.axis x).1, (h'.axis x).2.trans (h.axis x).2⟩

/-- Of all operations COMMIT_STEP and INIT alone write the ramp-enable (10_state.md R40). -/
theorem exec_rampEn {i : Instr} {s t : State} (h : exec i s = .next t) (hcommit : i ≠ .commitStep)
    (hinit : i ≠ .init) : t.rampEn = s.rampEn := by
  cases i with
  | init => exact absurd rfl hinit
  | commitStep => exact absurd rfl hcommit
  | ctrlTick => rw [exec, execCtrlTick_eq] at h; cases h; rfl
  | telTick acc => rw [execTelTick_frame h]
  | rxByte b =>
    obtain ⟨_, _, _, hramp, _⟩ := execRxByte_frame h
    exact hramp
  | detStep b =>
    cases h
    obtain ⟨_, _, _, hramp, _⟩ := detectByte_frame b s
    exact hramp
  | decStep b =>
    obtain ⟨_, _, _, hramp, _⟩ := decodeByte_frame (outcomeOf_next h)
    exact hramp
  | txDone | txErr | posRead | encAdd => cases h; rfl
  | sample | resetAll | rampAdvance | pidStep | tlmAssemble | actuate => cases h; rfl

/-- Of all operations COMMIT_STEP and INIT alone write a target or a bias (10_state.md R38, R39). -/
theorem RecordStep.command {c : Config} {i : Instr} {a a' : AxisState} (h : RecordStep c i a a')
    (hcommit : i ≠ .commitStep) (hinit : i ≠ .init) : a'.target = a.target ∧ a'.bias = a.bias := by
  cases i with
  | init => exact absurd rfl hinit
  | commitStep => exact absurd rfl hcommit
  | ctrlTick => obtain ⟨_, _, _, rfl⟩ := h; exact ⟨rfl, rfl⟩
  | sample => obtain ⟨_, _, rfl⟩ := h; exact ⟨rfl, rfl⟩
  | pidStep => obtain ⟨_, _, _, rfl⟩ := h; exact ⟨rfl, rfl⟩
  | rampAdvance | resetAll | rxByte | detStep => obtain ⟨_, rfl⟩ := h; exact ⟨rfl, rfl⟩
  | telTick | txDone | txErr | posRead | encAdd | decStep | tlmAssemble | actuate => cases h; exact ⟨rfl, rfl⟩

theorem exec_sameCommand {i : Instr} {s t : State} (h : exec i s = .next t) (hcommit : i ≠ .commitStep)
    (hinit : i ≠ .init) : SameCommand s t :=
  ⟨exec_rampEn h hcommit hinit, fun x => (exec_record h x).command hcommit hinit⟩

/-- The first operation of a completed run completes, and the rest runs on from its state. -/
theorem runInstrs_cons_next {i : Instr} {rest : List Instr} {s t : State} (h : runInstrs (i :: rest) s = .next t) :
    ∃ u, exec i s = .next u ∧ runInstrs rest u = .next t := by
  rw [runInstrs] at h
  split at h
  · exact ⟨_, ‹_›, h⟩
  · cases h
  · cases h

/-- A completed run of two lists is a completed run of each. -/
theorem runInstrs_append_next {p q : List Instr} {s t : State} (h : runInstrs (p ++ q) s = .next t) :
    ∃ u, runInstrs p s = .next u ∧ runInstrs q u = .next t := by
  rw [runInstrs_append] at h
  split at h
  · exact ⟨_, ‹_›, h⟩
  · cases h
  · cases h

/-- A run of received bytes writes no command field. -/
theorem runInstrs_rxBytes_sameCommand {bytes : List Byte} {s t : State}
    (h : runInstrs (bytes.map .rxByte) s = .next t) : SameCommand s t := by
  induction bytes generalizing s with
  | nil => cases h; exact .refl _
  | cons b bytes ih =>
    obtain ⟨u, hb, hrest⟩ := runInstrs_cons_next h
    exact (exec_sameCommand hb nofun nofun).trans (ih hrest)

/-! ### One commit per frame -/

/-- Settles O42: the frame leaves its payload in `pl` (`runInstrs_frame`), and nine COMMIT_STEPs write every field from
there (`runInstrs_commitSteps`). -/
theorem frameCommitsOnce : Obligations.FrameCommitsOnce := by
  refine ⟨fun p s hp hdec hready => ?_, fun i s t h hcommit hinit => ?_⟩
  · obtain ⟨u, hframe, hidx, hd, hbytes⟩ := runInstrs_frame hready hdec hp
    obtain ⟨t, hcommit, ht⟩ := runInstrs_commitSteps hidx 9 le_rfl
    obtain ⟨hramp, haxis⟩ := runInstrs_rxBytes_sameCommand hframe
    refine ⟨u, t, hframe, hidx, hd, hramp, haxis, hcommit, ht.commitIdx, fun i => ?_, ?_⟩
    · have hi := axis_index_le i
      rw [ht.axis, hbytes _ (by omega), hbytes _ (by omega), if_pos (by omega), if_pos (by omega)]
      exact ⟨rfl, rfl⟩
    · rw [ht.rampEn, if_pos (by decide), hbytes 4 (by decide), Option.map_some]
  · obtain ⟨hramp, haxis⟩ := exec_sameCommand h hcommit hinit
    exact ⟨hramp, haxis⟩

/-! ### The misaligned header -/

/-- Payload bytes are received while there is room for them. -/
theorem ReceivedPayload.append {p : List Byte} {s : State} (h : ReceivedPayload p s) (q : List Byte)
    (hq : p.length + q.length ≤ 9) :
    ∃ t, runInstrs (q.map .rxByte) s = .next t ∧ ReceivedPayload (p ++ q) t := by
  induction q generalizing p s with
  | nil => exact ⟨s, rfl, by rwa [List.append_nil]⟩
  | cons b q ih =>
    rw [List.length_cons] at hq
    obtain ⟨u, hb, hu⟩ := h.snoc (by omega) b
    obtain ⟨t, hrun, ht⟩ := ih hu (by rw [List.length_append, List.length_singleton]; omega)
    refine ⟨t, ?_, by rwa [List.append_cons]⟩
    rw [List.map_cons, runInstrs_cons hb, hrun]

/-- A byte that is not the tail aborts the frame: no commit starts, and the next byte may be a header
(43_command_decoder.md R204). -/
theorem ReceivedPayload.exec_mismatch {p : List Byte} {s : State} (h : ReceivedPayload p s) (hp : p.length = 9)
    {b : Byte} (hb : b ≠ 0x21#8) :
    ∃ t, exec (.rxByte b) s = .next t ∧ t.commitIdx = commitNone ∧ t.decState = awaitHeader := by
  obtain ⟨hready, hdec, _, _⟩ := h
  rw [if_pos hp] at hdec
  refine ⟨_, exec_rxByte_of_decodeByte hready (decodeByte_of_awaitTail hdec b), ?_⟩
  exact ⟨(detectByte_sameDecoder b _).commitIdx.trans ((if_neg hb).trans hready),
    (detectByte_sameDecoder b _).decState⟩

/-- The frame `pre ++ m :: header :: post` seen from its misaligned header: after `post` the decoder takes the next copy's
`pre` for the rest of a payload, and `m`, which is not the tail, aborts it right before the header comes again. -/
theorem runInstrs_misaligned_copies {pre post : List Byte} {m : Byte} (hlen : pre.length + post.length = 9)
    (hm : m ≠ 0x21#8) (n : Nat) {s : State} (h : ReceivedPayload post s) :
    ∃ t, runInstrs ((List.replicate n (pre ++ m :: header :: post)).flatten.map .rxByte) s = .next t ∧
      ReceivedPayload post t := by
  induction n generalizing s with
  | zero => exact ⟨s, rfl, h⟩
  | succ n ih =>
    obtain ⟨u, hpre, hu⟩ := h.append pre (by omega)
    obtain ⟨v, habort, hready, hdec⟩ := hu.exec_mismatch (by rw [List.length_append]; omega) hm
    obtain ⟨w, hpost, hw⟩ := runInstrs_header_payload hready hdec post (by omega)
    obtain ⟨t, hrest, ht⟩ := ih hw
    refine ⟨t, ?_, ht⟩
    rw [List.replicate_succ, List.flatten_cons, List.map_append, List.map_append, List.map_cons, List.append_assoc,
      runInstrs_append, hpre]
    dsimp only
    rw [List.cons_append, runInstrs_cons habort, runInstrs_append, hpost]
    exact hrest

/-- A list cut around two neighbours. -/
theorem eq_take_cons_cons_drop {α : Type} {f : List α} {k : Nat} {a b : α} (ha : f[k]? = some a)
    (hb : f[k + 1]? = some b) : f = f.take k ++ a :: b :: f.drop (k + 2) := by
  obtain ⟨hk, rfl⟩ := List.getElem?_eq_some_iff.1 ha
  obtain ⟨hk', rfl⟩ := List.getElem?_eq_some_iff.1 hb
  rw [← List.drop_eq_getElem_cons hk', ← List.drop_eq_getElem_cons hk, List.take_append_drop]

/-- Settles O48, by induction on the number of copies (`runInstrs_misaligned_copies`). -/
theorem misalignedHeaderLockout : Obligations.MisalignedHeaderLockout := by
  intro f p n s hlen _ _ hp1 hp9 hp hprev hdec hready
  obtain ⟨k, rfl⟩ := Nat.exists_eq_add_of_le' hp1
  rw [Nat.add_sub_cancel] at hprev
  have hk : k < f.length := by omega
  have hf := eq_take_cons_cons_drop (List.getElem?_eq_getElem hk) hp
  have hdrop : f.drop (k + 1) = header :: f.drop (k + 2) := by
    obtain ⟨hk', hheader⟩ := List.getElem?_eq_some_iff.1 hp
    rw [List.drop_eq_getElem_cons hk', hheader, header]
  have hlengths : (f.take k).length + (f.drop (k + 2)).length = 9 := by
    rw [List.length_take, List.length_drop]
    omega
  obtain ⟨u, hfirst, hu⟩ := runInstrs_header_payload hready hdec (f.drop (k + 2)) (by omega)
  obtain ⟨t, hcopies, ht⟩ := runInstrs_misaligned_copies hlengths
    (fun h => hprev (h ▸ List.getElem?_eq_getElem hk)) n hu
  have hrun : runInstrs ((f.drop (k + 1) ++ (List.replicate n f).flatten).map .rxByte) s = .next t := by
    rw [hdrop, List.map_append, runInstrs_append, hfirst]
    rw [header, ← hf] at hcopies
    exact hcopies
  obtain ⟨hramp, haxis⟩ := runInstrs_rxBytes_sameCommand hrun
  exact ⟨t, hrun, ht.ready, hramp, haxis⟩

/-! ### The detector and the decoder -/

theorem decoderView_eq_iff {s s' : State} : s'.decoderView = s.decoderView ↔ SameDecoder s s' ∧ SameCommand s s' := by
  simp only [State.decoderView, DecoderView.mk.injEq, PerAxis.mk.injEq]
  constructor
  · rintro ⟨hdec, hcnt, hpl, hidx, hramp, ⟨ta, tb, tc, td⟩, ba, bb, bc, bd⟩
    refine ⟨⟨hdec, hcnt, hpl, hidx⟩, hramp, fun x => ?_⟩
    cases x
    exacts [⟨ta, ba⟩, ⟨tb, bb⟩, ⟨tc, bc⟩, ⟨td, bd⟩]
  · rintro ⟨⟨hdec, hcnt, hpl, hidx⟩, hramp, haxis⟩
    obtain ⟨ta, ba⟩ := haxis .A
    obtain ⟨tb, bb⟩ := haxis .B
    obtain ⟨tc, bc⟩ := haxis .C
    obtain ⟨td, bd⟩ := haxis .D
    exact ⟨hdec, hcnt, hpl, hidx, hramp, ⟨ta, tb, tc, td⟩, ba, bb, bc, bd⟩

/-- DEC_STEP reads the decoder elements only. -/
theorem SameDecoder.decodeByte {b : Byte} {s s' t : State} (hs : SameDecoder s s') (h : decodeByte b s = .ok t) :
    ∃ t', decodeByte b s' = .ok t' ∧ SameDecoder t t' := by
  obtain ⟨hd, hc, hpl, hidx⟩ := hs
  obtain ⟨hr, hp, rfl⟩ | ⟨ht, rfl⟩ | ⟨hr, ht, rfl⟩ := decodeByte_cases h
  · exact ⟨_, decodeByte_of_receiving (hd.trans hr) (by rwa [hc]) b, by rw [hc], by rw [hc], by rw [hpl, hc], hidx⟩
  · exact ⟨_, decodeByte_of_awaitTail (hd.trans ht) b, rfl, rfl, hpl, by rw [hidx]⟩
  · refine ⟨_, decodeByte_of_awaitHeader (hd ▸ hr) (hd ▸ ht) b, ?_⟩
    split
    · exact ⟨rfl, rfl, hpl, hidx⟩
    · exact ⟨hd, hc, hpl, hidx⟩

/-- RX_BYTE and DEC_STEP alone do the same to the decoder and the command state. -/
theorem exec_decStep_of_rxByte {b : Byte} {s s' t : State} (hd : SameDecoder s s') (hc : SameCommand s s')
    (h : exec (.rxByte b) s = .next t) :
    ∃ t', exec (.decStep b) s' = .next t' ∧ SameDecoder t t' ∧ SameCommand t t' := by
  obtain ⟨_, hdec⟩ := execRxByte_next h
  obtain ⟨gd, gc, gpl, gidx⟩ := detectByte_sameDecoder b s
  have hdet : SameDecoder (detectByte b s) s' :=
    ⟨hd.decState.trans gd.symm, hd.plCnt.trans gc.symm, hd.pl.trans gpl.symm, hd.commitIdx.trans gidx.symm⟩
  obtain ⟨t', ht', hsame⟩ := hdet.decodeByte hdec
  have hexec := exec_decStep_of_decodeByte ht'
  have hkept := (exec_sameCommand h nofun nofun).symm
  exact ⟨t', hexec, hsame, hkept.trans (hc.trans (exec_sameCommand hexec nofun nofun))⟩

/-- COMMIT_STEP reads the decoder elements and writes the command state and the index only. -/
theorem exec_commitStep_congr {s s' t : State} (hd : SameDecoder s s') (hc : SameCommand s s')
    (h : exec .commitStep s = .next t) :
    ∃ t', exec .commitStep s' = .next t' ∧ SameDecoder t t' ∧ SameCommand t t' := by
  obtain ⟨hpending, rfl⟩ := execCommitStep_next h
  have h' := exec_commitStep_of_pending (s := s') (by rwa [hd.commitIdx])
  rw [hd.commitIdx] at h'
  obtain ⟨_, _, _, fd, fc, fpl, _⟩ := execCommitStep_frame h
  obtain ⟨_, _, _, fd', fc', fpl', _⟩ := execCommitStep_frame h'
  refine ⟨_, h', ⟨fd'.trans (hd.decState.trans fd.symm), fc'.trans (hd.plCnt.trans fc.symm),
    fpl'.trans (hd.pl.trans fpl.symm), rfl⟩, ?_, fun x => ?_⟩
  · change (commitField _ s').rampEn = (commitField _ s).rampEn
    rw [commitField_rampEn, commitField_rampEn, hd.pl, hc.rampEn]
  · obtain ⟨htarget, hbias⟩ := hc.axis x
    change ((commitField _ s').axis x).target = ((commitField _ s).axis x).target ∧
      ((commitField _ s').axis x).bias = ((commitField _ s).axis x).bias
    rw [commitField_axis, commitField_axis, hd.pl, htarget, hbias]
    exact ⟨rfl, rfl⟩

/-- A run with the detector is followed by the run without it (43_command_decoder.md R208). -/
theorem runInstrs_without_detector {events : List (Option Byte)} {s s' t : State} (hd : SameDecoder s s')
    (hc : SameCommand s s') (h : runInstrs (events.map fun e => e.elim .commitStep .rxByte) s = .next t) :
    ∃ t', runInstrs (events.map fun e => e.elim .commitStep .decStep) s' = .next t' ∧ SameDecoder t t' ∧
      SameCommand t t' := by
  induction events generalizing s s' with
  | nil => cases h; exact ⟨s', rfl, hd, hc⟩
  | cons e events ih =>
    obtain ⟨u, hstep, hrest⟩ := runInstrs_cons_next h
    have hfirst : ∃ u', exec (e.elim .commitStep .decStep) s' = .next u' ∧ SameDecoder u u' ∧ SameCommand u u' := by
      cases e with
      | none => exact exec_commitStep_congr hd hc hstep
      | some b => exact exec_decStep_of_rxByte hd hc hstep
    obtain ⟨u', hstep', hd', hc'⟩ := hfirst
    obtain ⟨t', hrest', hview⟩ := ih hd' hc' hrest
    exact ⟨t', (runInstrs_cons hstep' _).trans hrest', hview⟩

theorem SameWindow.trans {s t u : State} (h : SameWindow s t) (h' : SameWindow t u) : SameWindow s u :=
  ⟨h'.win0.trans h.win0, h'.win1.trans h.win1, h'.win2.trans h.win2⟩

theorem SameWindow.symm {s t : State} (h : SameWindow s t) : SameWindow t s :=
  ⟨h.win0.symm, h.win1.symm, h.win2.symm⟩

/-- The window after received bytes depends on the window before them and on the bytes only. -/
theorem runInstrs_rxBytes_window_congr {bytes : List Byte} {s s' t t' : State} (hw : SameWindow s s')
    (h : runInstrs (bytes.map .rxByte) s = .next t) (h' : runInstrs (bytes.map .rxByte) s' = .next t') :
    SameWindow t t' := by
  induction bytes generalizing s s' with
  | nil => cases h; cases h'; exact hw
  | cons b bytes ih =>
    obtain ⟨u, hb, hrest⟩ := runInstrs_cons_next h
    obtain ⟨u', hb', hrest'⟩ := runInstrs_cons_next h'
    have hu := (exec_rxByte_sameWindow hb).symm
    exact ih (hu.trans ((hw.detectByte b).trans (exec_rxByte_sameWindow hb'))) hrest hrest'

/-- An operation that leaves the detector window as it was: none but RX_BYTE, DET_STEP and INIT writes it
(10_state.md R45). -/
def KeepsWindow (i : Instr) : Prop := i ≠ .init ∧ ∀ b, i ≠ .rxByte b ∧ i ≠ .detStep b

theorem runInstrs_sameWindow {p : List Instr} (hp : ∀ i ∈ p, KeepsWindow i) {s t : State}
    (h : runInstrs p s = .next t) : SameWindow s t := by
  induction p generalizing s with
  | nil => cases h; exact ⟨rfl, rfl, rfl⟩
  | cons i p ih =>
    obtain ⟨hi, hp⟩ := List.forall_mem_cons.1 hp
    obtain ⟨hinit, hbyte⟩ := hi
    obtain ⟨u, hstep, hrest⟩ := runInstrs_cons_next h
    obtain ⟨_, _, hwin⟩ := decoderWriters i s u hstep hinit (fun b => (hbyte b).1)
    obtain ⟨h0, h1, h2⟩ := hwin fun b => (hbyte b).2
    exact SameWindow.trans ⟨h0, h1, h2⟩ (ih hp hrest)

/-- A byte and operations that keep the window after it: the window is that of the byte. -/
theorem runInstrs_rxByte_window {b : Byte} {mid : List Instr} (hmid : ∀ i ∈ mid, KeepsWindow i) {s t : State}
    (h : runInstrs (.rxByte b :: mid) s = .next t) (hnone : ¬ (s.win1 = 0x21#8 ∧ s.win2 = 0x40#8 ∧ b = 0x21#8)) :
    t.win1 = s.win2 ∧ t.win2 = b := by
  obtain ⟨u, hb, hrest⟩ := runInstrs_cons_next h
  obtain ⟨h1, h2⟩ := exec_rxByte_window hb hnone
  have hkept := runInstrs_sameWindow hmid hrest
  exact ⟨hkept.win1.trans h1, hkept.win2.trans h2⟩

/-- The three bytes of the trigger zero the positions whatever stands between them, if the first of them does not
complete a trigger itself. -/
theorem runInstrs_trigger_pos {mid1 mid2 : List Instr} (hmid1 : ∀ i ∈ mid1, KeepsWindow i)
    (hmid2 : ∀ i ∈ mid2, KeepsWindow i) {s t : State} (hnone : ¬ (s.win1 = 0x21#8 ∧ s.win2 = 0x40#8))
    (h : runInstrs ((.rxByte 0x21#8 :: mid1) ++ ((.rxByte 0x40#8 :: mid2) ++ [.rxByte 0x21#8])) s = .next t)
    (i : Axis) : (t.axis i).pos = 0#32 := by
  obtain ⟨u, hfirst, h⟩ := runInstrs_append_next h
  obtain ⟨v, hsecond, h⟩ := runInstrs_append_next h
  obtain ⟨_, hthird, h⟩ := runInstrs_cons_next h
  cases h
  obtain ⟨_, hu⟩ := runInstrs_rxByte_window hmid1 hfirst fun ⟨h1, h2, _⟩ => hnone ⟨h1, h2⟩
  obtain ⟨hv1, hv2⟩ := runInstrs_rxByte_window hmid2 hsecond fun ⟨_, _, h⟩ => absurd h (by decide)
  rw [exec_rxByte_axis hthird, if_pos ⟨hv1.trans hu, hv2, rfl⟩]

/-- Settles O46. -/
theorem detectorIndependence : Obligations.DetectorIndependence := by
  refine ⟨fun events s s' t hview h => ?decoder, fun bytes s s' t t' h0 h1 h2 h h' => ?window,
    fun mid1 mid2 s t hmid hnone h => ?trigger⟩
  case decoder =>
    obtain ⟨hd, hc⟩ := decoderView_eq_iff.1 hview
    obtain ⟨t', hrun, hsame⟩ := runInstrs_without_detector hd hc h
    exact ⟨t', hrun, decoderView_eq_iff.2 hsame⟩
  case window =>
    obtain ⟨hw0, hw1, hw2⟩ := runInstrs_rxBytes_window_congr ⟨h0, h1, h2⟩ h h'
    exact ⟨hw0, hw1, hw2⟩
  case trigger =>
    obtain ⟨hmid1, hmid2⟩ := List.forall_mem_append.1 hmid
    simp only [List.append_assoc, List.singleton_append] at h
    exact runInstrs_trigger_pos hmid1 hmid2 hnone h

/-! ### No trigger, no reset -/

/-- A trigger that would be completed now stands at the front of the last two bytes and the next. -/
theorem holdsTrigger_of_completed {w1 w2 b : Byte} (rest : List Byte) (h : w1 = 0x21#8 ∧ w2 = 0x40#8 ∧ b = 0x21#8) :
    HoldsTrigger (w1 :: w2 :: b :: rest) := by
  obtain ⟨rfl, rfl, rfl⟩ := h
  exact ⟨[], rest, rfl⟩

/-- Settles O47, by induction on the bytes: while no trigger is completed, the window's last two bytes are the last two
received. -/
theorem noTriggerNoReset : Obligations.NoTriggerNoReset := by
  intro bytes
  induction bytes with
  | nil => rintro s t _ h i; cases h; rfl
  | cons b bytes ih =>
    intro s t hnone h i
    obtain ⟨u, hb, hrest⟩ := runInstrs_cons_next h
    have hno := mt (holdsTrigger_of_completed bytes) hnone
    obtain ⟨h1, h2⟩ := exec_rxByte_window hb hno
    have hlater : ¬ HoldsTrigger (u.win1 :: u.win2 :: bytes) := by
      rw [h1, h2]
      exact fun htrigger => hnone (htrigger.trans (List.suffix_cons _ _).isInfix)
    rw [ih u t hlater hrest i, exec_rxByte_axis hb, if_neg hno]

end Sys2Proof.Machine
end

section
/-! Proofs for 44_telemetry.md: the buffer TLM_ASSEMBLE leaves (R242), the results of TEL_TICK, TX_DONE and TX_ERR (R241,
R244, R245), and the one transfer between two clearings of `busy` (R246). -/

namespace Sys2Proof.Machine

open Sys2Proof

/-! ### TLM_ASSEMBLE -/

/-- A signed number modulo 2^n is its bits as an unsigned number (00_scope.md R12). -/
theorem toInt_emod_two_pow {n : Nat} (d : BitVec n) : d.toInt % 2 ^ n = d.toNat := by
  have hcast : (2 : Int) ^ n = ((2 ^ n : Nat) : Int) := by push_cast; rfl
  rw [BitVec.toInt_eq_toNat_bmod, hcast, Int.bmod_emod, ← Int.natCast_mod, Nat.mod_eq_of_lt d.isLt]

theorem sext_emod_two_pow {n : Nat} (hn : 1 ≤ n) (v : Int) : sext n v % 2 ^ n = v % 2 ^ n := by
  have hcast : (2 : Int) ^ n = ((2 ^ n : Nat) : Int) := by push_cast; rfl
  rw [sext_eq_bmod hn, hcast, Int.bmod_emod]

theorem exec_tlmAssemble (s : State) : exec .tlmAssemble s = .next { s with txbuf := assembledBuffer s } := rfl

/-- Settles O20: the bytes are those of `read_assembledBuffer`, read field by field. -/
theorem tlmAssembleResult : Obligations.TlmAssembleResult := by
  refine fun s => ⟨assembledBuffer s, exec_tlmAssemble s, ?header, ?tail, fun i => ⟨?target, ?position, ?speed⟩,
    fun a ha => ?outside⟩
  case header => exact read_assembledBuffer s 0
  case tail => exact read_assembledBuffer s 41
  case target => exact memRead_assembledBuffer_target s i
  case position =>
    exact Int.ofNat_inj.1 ((memRead_assembledBuffer_position s i).trans (toInt_emod_two_pow (s.axis i).pos))
  case speed => exact (memRead_assembledBuffer_speed s i).trans (sext_emod_two_pow (n := 32) (by decide) _)
  case outside =>
    rw [read_assembledBuffer, if_neg (by omega), if_neg (by omega), if_neg (by omega), if_neg (by omega),
      if_neg (by omega)]

/-! ### TEL_TICK, TX_DONE and TX_ERR -/

theorem exec_telTick_of_busy (acc : Bool) {s : State} (h : s.busy = true) : exec (.telTick acc) s = .next s := if_pos h

theorem exec_telTick_of_idle (acc : Bool) {s : State} (h : s.busy = false) : exec (.telTick acc) s = .next
    (if acc = true then (assembleFrame s).setBusy.emit (.tx (txFrame (assembleFrame s))) else assembleFrame s) :=
  if_neg (by simp [h])

/-- Settles O21: the two branches on `busy`; the word is the one the encoder writes. -/
theorem telTickResult : Obligations.TelTickResult := by
  refine fun acc s => ⟨decode_ok_iff_encode.2 ⟨rfl, ?word⟩, exec_telTick_of_busy acc,
    fun hidle => ⟨_, exec_tlmAssemble s, exec_telTick_of_idle acc hidle⟩⟩
  case word => cases acc <;> rfl

/-- Settles O22. -/
theorem txDoneResult : Obligations.TxDoneResult := ⟨decode_ok_iff_encode.2 ⟨rfl, rfl⟩, fun _ => rfl⟩

/-- Settles O23. -/
theorem txErrResult : Obligations.TxErrResult := ⟨decode_ok_iff_encode.2 ⟨rfl, rfl⟩, fun _ => rfl⟩

/-! ### One transfer between two clearings of `busy` -/

theorem txEvents_append (g h : List OutEvent) : txEvents (g ++ h) = txEvents g ++ txEvents h :=
  List.filter_append g h

/-- An operation that does not clear `busy` appends a TX exactly when it sets `busy` (44_telemetry.md R241). -/
theorem exec_transfers {i : Instr} (hi : clearsBusy i = false) {s t : State} (h : exec i s = .next t) :
    (txEvents (appendedEvents i s t)).length + s.busy.toNat = t.busy.toNat := by
  obtain ⟨hbusy, _⟩ := exec_transmitter h
  rw [hbusy]
  cases i with
  | init | txDone | txErr => cases hi
  | telTick acc => cases hs : s.busy <;> cases acc <;> simp [appendedEvents, txEvents, busyAfter, hs]
  | ctrlTick | rxByte | commitStep | posRead | encAdd => simp [appendedEvents, txEvents, busyAfter]
  | sample | resetAll | rampAdvance | pidStep | detStep | decStep | tlmAssemble | actuate =>
    simp [appendedEvents, txEvents, busyAfter]

/-- A run that never clears `busy` appends as many TX events as `busy` rises. -/
theorem runInstrs_transfers {p : List Instr} (hp : ∀ i ∈ p, clearsBusy i = false) {s t : State}
    (h : runInstrs p s = .next t) :
    ∃ new, t.hist = s.hist ++ new ∧ (txEvents new).length + s.busy.toNat = t.busy.toNat := by
  induction p generalizing s with
  | nil => cases h; exact ⟨[], (List.append_nil _).symm, Nat.zero_add _⟩
  | cons i p ih =>
    obtain ⟨hi, hp⟩ := List.forall_mem_cons.1 hp
    obtain ⟨u, hstep, hrest⟩ := runInstrs_cons_next h
    obtain ⟨new, hhist, hcount⟩ := ih hp hrest
    have hfirst := exec_transfers hi hstep
    refine ⟨appendedEvents i s u ++ new, ?_, ?_⟩
    · rw [hhist, (exec_appends hstep).hist, List.append_assoc]
    · rw [txEvents_append, List.length_append]
      omega

/-- A transfer in flight stays in flight until something clears `busy` (10_state.md R46). -/
theorem runInstrs_busy {p : List Instr} (hp : ∀ i ∈ p, clearsBusy i = false) {s t : State}
    (h : runInstrs p s = .next t) (hs : s.busy = true) : t.busy = true := by
  obtain ⟨_, _, hcount⟩ := runInstrs_transfers hp h
  rw [hs, Bool.toNat_true] at hcount
  exact Bool.toNat_eq_one.1 (le_antisymm t.busy.toNat_le (by omega))

/-- Settles O50: `busy` is a bit and can rise only once; an accepted TEL_TICK that finds it 0 makes it rise. -/
theorem atMostOneTransfer : Obligations.AtMostOneTransfer := by
  intro events s t hkeep h
  obtain ⟨new, hhist, hcount⟩ := runInstrs_transfers hkeep h
  refine ⟨new, hhist, ?atMost, fun haccepted hidle => ?exactly⟩
  case atMost =>
    have hbit := t.busy.toNat_le
    have hroom : (if s.busy = true then 0 else 1) = 1 - s.busy.toNat := by cases s.busy <;> rfl
    omega
  case exactly =>
    obtain ⟨rest, rfl⟩ := List.head?_eq_some_iff.1 haccepted
    obtain ⟨_, hkeep⟩ := List.forall_mem_cons.1 hkeep
    obtain ⟨u, hstep, hrest⟩ := runInstrs_cons_next h
    obtain ⟨hset, _⟩ := exec_transmitter hstep
    have hbusy : t.busy = true := runInstrs_busy hkeep hrest (by simpa [busyAfter] using hset)
    simpa [hidle, hbusy] using hcount

end Sys2Proof.Machine
end

section
/-! Proofs for 45_control_tick.md: the result of CTRL_TICK (R271), ACTUATE (R272) and INIT (R275), and that within a tick no
axis reads what another axis writes (R274). -/

namespace Sys2Proof.Machine

open Sys2Proof

/-! ### ACTUATE and INIT -/

/-- Settles O25: ACTUATE is one output event. -/
theorem actuateResult : Obligations.ActuateResult := fun _ => rfl

/-- Settles O26: INIT leaves the elements of the state right after reset (`initialise_eq`), whose values `resetValues`
gives. -/
theorem initResult : Obligations.InitResult := by
  refine ⟨decode_ok_iff_encode.2 ⟨rfl, rfl⟩, fun s => ⟨_, congrArg Host.Outcome.next (initialise_eq s), ?_⟩⟩
  obtain ⟨haxes, hramp, hdec, hcnt, hpl, hidx, hwin0, hwin1, hwin2, hbusy, htxbuf⟩ := resetValues
  exact ⟨haxes, hramp, hdec, hcnt, hpl, hidx, hwin0, hwin1, hwin2, hbusy, htxbuf, rfl, rfl, rfl⟩

/-! ### CTRL_TICK -/

/-- CTRL_TICK completes in every state; the new record of an axis is `tickRecord` of its own record and counter before
(45_control_tick.md R271). -/
theorem exec_ctrlTick_records (s : State) : ∃ t, exec .ctrlTick s = .next t ∧
    (∀ i, t.axis i = tickRecord s.cfg i s.rampEn (s.cnt.get i) (s.axis i)) ∧
    t = { s with
      cnt := PerAxis.all 0
      axes := t.axes
      hist := s.hist ++ [.cntClr .A, .cntClr .B, .cntClr .C, .cntClr .D,
        .act (t.axis .A).out (t.axis .B).out (t.axis .C).out (t.axis .D).out] } :=
  ⟨_, execCtrlTick_eq s, fun i => by cases i <;> rfl, rfl⟩

theorem State.setAxis_injective (s : State) (i : Axis) : Function.Injective (s.setAxis i) := fun a b h => by
  simpa only [State.setAxis_axis_self] using congrArg (fun t => t.axis i) h

/-- The ramp a RAMP_ADVANCE writes (`exec_rampAdvance`), in the terms of `rampAdvanceResult` (42_ramp.md R181). -/
theorem rampRecord_eq_ite {s : State} (hstep : 1 ≤ s.cfg.rampStep) (i : Axis) (t : Int) (en : Bool) :
    rampRecord s.cfg t en (s.axis i).ramp =
      if en = false ∨ |t * s.cfg.res - (s.axis i).ramp| < s.cfg.rampStep then t * s.cfg.res
      else if (s.axis i).ramp < t * s.cfg.res then (s.axis i).ramp + s.cfg.rampStep
      else (s.axis i).ramp - s.cfg.rampStep := by
  have hsame := Host.Outcome.next.inj ((exec_rampAdvance i t en s).symm.trans (rampAdvanceResult i t en s hstep))
  exact congrArg AxisState.ramp (s.setAxis_injective i hsame)

/-- Settles O24: the record of every axis is `tickRecord` (`exec_ctrlTick_records`), here in the terms of the library. -/
theorem ctrlTickResult : Obligations.CtrlTickResult := by
  intro s hc
  obtain ⟨hw, _, _, _, hint, hout, _, hstep, _⟩ := (configLegal_iff _).1 hc
  obtain ⟨t, hexec, hrecords, hframe⟩ := exec_ctrlTick_records s
  refine ⟨t, hexec, fun i => ?_, hframe⟩
  rw [hrecords i, tickRecord, sext_eq_bmod (by omega), rampRecord_eq_ite hstep, wrap32_eq, clamp_eq hint, clamp_eq hout]
  simp only [tdiv_eq]

/-! ### No axis reads what another axis writes -/

/-- Settles O57: `tickRecord` has no argument but the parameters, the ramp-enable, and the axis's own counter and record. -/
theorem axesDoNotInterfere : Obligations.AxesDoNotInterfere := by
  intro i s s' hcfg hramp haxis hcnt
  obtain ⟨t, hexec, hrecords, hframe⟩ := exec_ctrlTick_records s
  obtain ⟨t', hexec', hrecords', hframe'⟩ := exec_ctrlTick_records s'
  refine ⟨t, t', hexec, hexec', ?record, ?counter⟩
  case record => rw [hrecords, hrecords', hcfg, hramp, haxis, hcnt]
  case counter => rw [hframe, hframe']

/-- A state with its history apart: what the order of the axes within a tick does not change (45_control_tick.md R274). -/
def State.eraseHist (s : State) : State := { s with hist := [] }

theorem perAxis_set_comm {α : Type} (p : PerAxis α) {i j : Axis} (h : i ≠ j) (v w : α) :
    (p.set i v).set j w = (p.set j w).set i v := by
  refine PerAxis.ext_get fun k => ?_
  simp only [PerAxis.get_set]
  by_cases hi : i = k
  · subst hi
    simp [h.symm]
  · simp [hi]

/-- An axis's part of a tick does not read the history. -/
theorem tickAxis_eraseHist (en : Bool) (s : State) (i : Axis) :
    (tickAxis en s.eraseHist i).eraseHist = (tickAxis en s i).eraseHist := by
  simp only [tickAxis_eq, State.eraseHist]

/-- The parts of two axes of a tick commute, the history apart: each reads and writes its own record and counter. -/
theorem tickAxis_comm (en : Bool) (s : State) (i j : Axis) :
    (tickAxis en (tickAxis en s i) j).eraseHist = (tickAxis en (tickAxis en s j) i).eraseHist := by
  by_cases h : i = j
  · rw [h]
  · simp only [tickAxis_eq, State.eraseHist, PerAxis.get_set_ne _ h, PerAxis.get_set_ne _ (Ne.symm h),
      perAxis_set_comm _ h]

/-- Erasing the history after every part of a tick is erasing it once at the end. -/
theorem foldl_tickAxis_eraseHist (en : Bool) (order : List Axis) (s : State) :
    (order.foldl (tickAxis en) s).eraseHist = order.foldl (fun t i => (tickAxis en t i).eraseHist) s.eraseHist :=
  (List.foldl_hom State.eraseHist (tickAxis_eraseHist en)).symm

/-- Settles O58: parts that commute (`tickAxis_comm`) may be performed in any order. -/
theorem tickOrderIrrelevant : Obligations.TickOrderIrrelevant := by
  intro order s hperm
  change State.eraseHist _ = State.eraseHist _
  rw [foldl_tickAxis_eraseHist, foldl_tickAxis_eraseHist]
  refine hperm.foldl_eq' (fun i _ j _ t => ?_) s.eraseHist
  rw [tickAxis_eraseHist, tickAxis_eraseHist, tickAxis_comm]

end Sys2Proof.Machine
end

section
/-! Proofs for 60_exceptions.md: idling (R310), and the saturation conditions SC3 and SC4 as the clamps of PID_STEP
(R301). -/

namespace Sys2Proof.Machine

open Sys2Proof

/-! ### Idling -/

/-- Settles O8: with no word to take, `step` answers the state itself. -/
theorem idleKeepsState : Obligations.IdleKeepsState := by
  intro s hc hinput
  have htake : takeEvent s = none := by rw [takeEvent, hinput]
  rw [step, if_pos hc, htake]
  rfl

/-! ### A PID_STEP that meets no saturation condition -/

@[simp] theorem when_eq_nil_iff (p : Bool) (c : SilentCondition) : when p c = [] ↔ p = false := by
  cases p <;> simp [when]

theorem outsideLimit_eq_false_iff (v limit : Int) : outsideLimit v limit = false ↔ -limit ≤ v ∧ v ≤ limit := by
  simp [outsideLimit]

/-- The clamp keeps a value that is not outside its limit. -/
theorem clamp_eq_self_of_not_outsideLimit {v limit : Int} (h : outsideLimit v limit = false) :
    clamp v (-limit) limit = v := by
  obtain ⟨hlo, hhi⟩ := (outsideLimit_eq_false_iff v limit).1 h
  rw [clamp, if_neg (by omega), if_neg (by omega)]

/-- A PID_STEP that meets neither SC3 nor SC4 clamps nothing (60_exceptions.md R301). -/
theorem pidRecord_of_no_conditions {i : Axis} {sp meas : Int} {s : State} (h : pidConditions i sp meas s = []) :
    pidRecord s.cfg i (sp - meas) (s.axis i) = { s.axis i with
      integ := (s.axis i).integ + (sp - meas)
      out := tdiv (s.cfg.kp.get i * (sp - meas) + s.cfg.ki.get i * ((s.axis i).integ + (sp - meas)) +
        s.cfg.kd.get i * (sp - meas - (s.axis i).prevErr)) s.cfg.scale
      prevErr := sp - meas } := by
  obtain ⟨hinteg, hout⟩ := List.append_eq_nil_iff.1 h
  rw [when_eq_nil_iff] at hinteg hout
  have hinteg' := clamp_eq_self_of_not_outsideLimit hinteg
  rw [hinteg'] at hout
  rw [pidRecord, hinteg', clamp_eq_self_of_not_outsideLimit hout]

/-- Settles O39: the step writes `pidRecord`, which clamps nothing here (`pidRecord_of_no_conditions`). -/
theorem unsaturatedPid : Obligations.UnsaturatedPid := by
  intro i sp meas s _ hnone
  refine ⟨_, exec_pidStep i sp meas s, ?_⟩
  rw [State.setAxis_axis_self, pidRecord_of_no_conditions hnone]
  exact ⟨rfl, tdiv_eq _ _⟩

end Sys2Proof.Machine
end

section
/-! Proofs for 70_reset_and_hazards.md: INIT leaves a state that meets the invariant (R340, R341). -/

namespace Sys2Proof.Machine

open Sys2Proof

/-- A history of possible events stays one when INIT appends its four counter clears (45_control_tick.md R275). -/
theorem hist_append_cntClrs_ok {c : Config} {hist : List OutEvent} (h : ∀ e ∈ hist, e.Ok c) :
    ∀ e ∈ hist ++ [.cntClr .A, .cntClr .B, .cntClr .C, .cntClr .D], e.Ok c := by
  have hclears : ∀ e ∈ ([.cntClr .A, .cntClr .B, .cntClr .C, .cntClr .D] : List OutEvent), e.Ok c := by
    simp [OutEvent.Ok]
  exact List.forall_mem_append.2 ⟨h, hclears⟩

/-- Settles O32: INIT writes every element but the history (`initialise_eq`), and the elements of reset meet the invariant
(`inv_of_reset`), so that no range of the state before is needed. -/
theorem initEstablishesInvariant : Obligations.InitEstablishesInvariant := fun s hc hhist =>
  ⟨_, congrArg Host.Outcome.next (initialise_eq s), inv_of_reset hc (hist_append_cntClrs_ok hhist) s.input⟩

end Sys2Proof.Machine
end
